-- ==== Sys2Proof/Word.lean ====
section
/-! DEFINITION. The widths of the CFF block (00_scope.md R9, R10): bytes, 16-bit and 32-bit unsigned values. -/

namespace Sys2Proof

/-- A byte, 0..255 (R10). -/
abbrev Byte := BitVec 8

/-- A `u16` (R10): every 16-bit field of the wire frame and the checksum. -/
abbrev Half := BitVec 16

/-- A `u32` (R9, R10): addresses, lengths, counts, capacities, response values. -/
abbrev Word := BitVec 32

end Sys2Proof
end

