-- ==== Sys2Proof/Syntax.lean ====
section
/-! DEFINITION. The commands of the block (30_encoding.md R95 to R97, R102), their operands, the register names of
10_state.md R30 and R31, and the three-word descriptor they are encoded in. -/

namespace Sys2Proof

/-- A reference operand (00_scope.md R16): `none` is an absent reference (`AP = 0`, its address ignored), `some a`
a present one. Address 0 is an ordinary address (20_memory.md R62). -/
abbrev Ref := Option Word

/-- The window operand of DECODE and SCAN (R95, R96). -/
inductive WindowOp where
  /-- `SRC = 0`: the region `(A, N)`, if the reference is present -/
  | lin (ref : Ref) (n : Word)
  /-- `SRC = 1`: the occupied bytes of the circular buffer; `AP`, `A`, `N` ignored -/
  | cb
  deriving DecidableEq, Repr

/-- The registers RD_REG can name (10_state.md R30, R31). -/
inductive Reg where
  | cbCtrl | cbBase | cbCap | cbApp | cbCon | cbFree
  | encCtrl | encBase | encCap | encCounter
  | scCursor | scCount | scStop
  | cfgMaxPayload | cfgPreamble | cfgCrc
  deriving DecidableEq, Repr

/-- One constructor per row of the opcode map (R97). The operands are those R96 says the command uses. -/
inductive Instr where
  /-- CRC16 `<ref>, <n>` (40_crc.md R127) -/
  | crc16 (ref : Ref) (n : Word)
  /-- CB_INIT `<ref>, <n>` (41_cbuf.md R142) -/
  | cbInit (ref : Ref) (n : Word)
  /-- CB_APPEND `<ref>, <n>` (41_cbuf.md R143) -/
  | cbAppend (ref : Ref) (n : Word)
  /-- CB_CONSUME `<ref>, <n>` (41_cbuf.md R144) -/
  | cbConsume (ref : Ref) (n : Word)
  /-- ENC_INIT `<ref>, <n>` (42_encoder.md R171) -/
  | encInit (ref : Ref) (n : Word)
  /-- ENC_BUILD `<ref>, <n>` (42_encoder.md R172) -/
  | encBuild (ref : Ref) (n : Word)
  /-- FRAME_SIZE `<n>` (42_encoder.md R173) -/
  | frameSize (n : Word)
  /-- ENC_SET_COUNTER `<n>` (42_encoder.md R174) -/
  | encSetCounter (n : Word)
  /-- DECODE `<window>` (43_decoder.md R204) -/
  | decode (w : WindowOp)
  /-- SCAN `<window>, <sink>` (44_scanner.md R234) -/
  | scan (w : WindowOp) (sink : Bool)
  /-- RD_REG `<number>` (45_system.md R260) -/
  | rdReg (n : Word)
  deriving DecidableEq, Repr

/-- A command descriptor: three 32-bit words, passed by value (R95). -/
structure Descriptor where
  w0 : Word
  w1 : Word
  w2 : Word
  deriving DecidableEq, Repr

end Sys2Proof
end

