-- ==== Sys2Proof/Machine/RegMap.lean ====
section
/-! DEFINITION. The register numbers of RD_REG (10_state.md R30, R31). -/

namespace Sys2Proof

/-- The number of each register (R30, R31). -/
def Reg.number : Reg → Word
  | .cbCtrl => 0x00
  | .cbBase => 0x01
  | .cbCap => 0x02
  | .cbApp => 0x03
  | .cbCon => 0x04
  | .cbFree => 0x05
  | .encCtrl => 0x08
  | .encBase => 0x09
  | .encCap => 0x0A
  | .encCounter => 0x0B
  | .scCursor => 0x10
  | .scCount => 0x11
  | .scStop => 0x12
  | .cfgMaxPayload => 0x18
  | .cfgPreamble => 0x19
  | .cfgCrc => 0x1A

/-- Every register, in the order of R30 and R31. -/
def Reg.all : List Reg :=
  [.cbCtrl, .cbBase, .cbCap, .cbApp, .cbCon, .cbFree, .encCtrl, .encBase, .encCap, .encCounter,
   .scCursor, .scCount, .scStop, .cfgMaxPayload, .cfgPreamble, .cfgCrc]

/-- The register of a number; `none` for a reserved number (R30: "A number not in this table or in rule R31 is
reserved"). -/
def Reg.ofNumber? (n : Word) : Option Reg :=
  Reg.all.find? fun r => r.number == n

end Sys2Proof
end

