-- ==== Sys2Proof/WellFormed.lean ====
section
/-! DEFINITION. Which commands are well formed (30_encoding.md R99): every operand value is legal, except that RD_REG
must name a register of 10_state.md R30 or R31. -/

namespace Sys2Proof

/-- R99's one condition on operands; the others of R99 are about descriptor bits no `Instr` can hold. -/
def Instr.wf : Instr → Bool
  | .crc16 _ _ => true
  | .cbInit _ _ => true
  | .cbAppend _ _ => true
  | .cbConsume _ _ => true
  | .encInit _ _ => true
  | .encBuild _ _ => true
  | .frameSize _ => true
  | .encSetCounter _ => true
  | .decode _ => true
  | .scan _ _ => true
  | .rdReg n => (Reg.ofNumber? n).isSome

end Sys2Proof
end

