-- ==== Sys2Proof/Decode.lean ====
section
/-! DEFINITION. The command descriptor (30_encoding.md R95 to R99, R102): its fields, the opcode map, the decoder, the
encoder, and the numbering of a descriptor's bits as one number. -/

namespace Sys2Proof

/-! ## Fields of a descriptor (R95) -/

/-- `AP` = `W0[8]` -/
def Descriptor.ap (d : Descriptor) : Bool := d.w0.getLsbD 8

/-- `SRC` = `W0[9]` -/
def Descriptor.src (d : Descriptor) : Bool := d.w0.getLsbD 9

/-- `SINK` = `W0[10]` -/
def Descriptor.sink (d : Descriptor) : Bool := d.w0.getLsbD 10

/-- The reference operand `(AP, A)` (R95); `A` is ignored when `AP = 0` (R96). -/
def Descriptor.ref (d : Descriptor) : Ref := if d.ap then some d.w1 else none

/-- The window operand of DECODE and SCAN; with `SRC = 1`, `AP`, `A` and `N` are ignored (R96). -/
def Descriptor.window (d : Descriptor) : WindowOp := if d.src then .cb else .lin d.ref d.w2

/-! ## The opcode map (R97) -/

/-- The eleven rows of the opcode map. -/
inductive Op where
  | crc16 | cbInit | cbAppend | cbConsume | encInit | encBuild | frameSize | encSetCounter | decode | scan | rdReg
  deriving DecidableEq, Repr

/-- One row of R97: the command, and `match` and `mask` on `W0`. -/
structure OpRow where
  op : Op
  pattern : Word
  mask : Word
  deriving DecidableEq, Repr

/-- The opcode map of R97, row for row. -/
def opRows : List OpRow :=
  [⟨.crc16,         0x00000001, 0xFFFFFEFF⟩,
   ⟨.cbInit,        0x00000010, 0xFFFFFEFF⟩,
   ⟨.cbAppend,      0x00000011, 0xFFFFFEFF⟩,
   ⟨.cbConsume,     0x00000012, 0xFFFFFEFF⟩,
   ⟨.encInit,       0x00000020, 0xFFFFFEFF⟩,
   ⟨.encBuild,      0x00000021, 0xFFFFFEFF⟩,
   ⟨.frameSize,     0x00000022, 0xFFFFFFFF⟩,
   ⟨.encSetCounter, 0x00000023, 0xFFFFFFFF⟩,
   ⟨.decode,        0x00000030, 0xFFFFFCFF⟩,
   ⟨.scan,          0x00000040, 0xFFFFF8FF⟩,
   ⟨.rdReg,         0x00000050, 0xFFFFFFFF⟩]

/-- The row matches the word: `W0 AND mask = match` (R97). -/
def OpRow.matches (r : OpRow) (w0 : Word) : Bool := w0 &&& r.mask == r.pattern

/-- The command of the first row that matches (R97). -/
def selectOp (w0 : Word) : Option Op := (opRows.find? fun r => r.matches w0).map OpRow.op

/-- Why a descriptor is illegal (R99). The block reports them all alike (`STATUS = 0xFF`); the names are the model's.
Log entry 11. -/
inductive Illegal where
  /-- a bit of `W0[31:11]` is set -/
  | reservedBitSet
  /-- `OPCODE` is none of the eleven -/
  | unassignedOpcode
  /-- a flag bit is set that the command does not use (R96) -/
  | unusedFlagSet
  /-- RD_REG of a number outside R30 and R31 -/
  | noSuchRegister
  deriving DecidableEq, Repr

/-- The name of the rejection of a `W0` that matches no row (R99). -/
def illegalReason (w0 : Word) : Illegal :=
  if w0.extractLsb' 11 21 ≠ 0 then .reservedBitSet
  else if opRows.all (fun r => r.pattern.extractLsb' 0 8 != w0.extractLsb' 0 8) then .unassignedOpcode
  else .unusedFlagSet

/-- The decoder: total on every descriptor, rejecting by name (R97, R99). -/
def decode (d : Descriptor) : Except Illegal Instr :=
  match selectOp d.w0 with
  | none => .error (illegalReason d.w0)
  | some .crc16 => .ok (.crc16 d.ref d.w2)
  | some .cbInit => .ok (.cbInit d.ref d.w2)
  | some .cbAppend => .ok (.cbAppend d.ref d.w2)
  | some .cbConsume => .ok (.cbConsume d.ref d.w2)
  | some .encInit => .ok (.encInit d.ref d.w2)
  | some .encBuild => .ok (.encBuild d.ref d.w2)
  | some .frameSize => .ok (.frameSize d.w2)
  | some .encSetCounter => .ok (.encSetCounter d.w2)
  | some .decode => .ok (.decode d.window)
  | some .scan => .ok (.scan d.window d.sink)
  | some .rdReg => if (Reg.ofNumber? d.w2).isSome then .ok (.rdReg d.w2) else .error .noSuchRegister

/-! ## The encoder (R95, R97, R102: "Fields a form does not mention are 0") -/

/-- The row of the opcode map a command stands for (R97). -/
def Instr.op : Instr → Op
  | .crc16 _ _ => .crc16
  | .cbInit _ _ => .cbInit
  | .cbAppend _ _ => .cbAppend
  | .cbConsume _ _ => .cbConsume
  | .encInit _ _ => .encInit
  | .encBuild _ _ => .encBuild
  | .frameSize _ => .frameSize
  | .encSetCounter _ => .encSetCounter
  | .decode _ => .decode
  | .scan _ _ => .scan
  | .rdReg _ => .rdReg

/-- `OPCODE` of a command (R97). -/
def Instr.opcode : Instr → Word
  | .crc16 _ _ => 0x01
  | .cbInit _ _ => 0x10
  | .cbAppend _ _ => 0x11
  | .cbConsume _ _ => 0x12
  | .encInit _ _ => 0x20
  | .encBuild _ _ => 0x21
  | .frameSize _ => 0x22
  | .encSetCounter _ => 0x23
  | .decode _ => 0x30
  | .scan _ _ => 0x40
  | .rdReg _ => 0x50

/-- `W0` from the opcode and the three flags (R95). -/
def packW0 (opcode : Word) (ap src sink : Bool) : Word :=
  opcode ||| (if ap then 0x100 else 0) ||| (if src then 0x200 else 0) ||| (if sink then 0x400 else 0)

/-- A descriptor whose operand is a reference and a length. -/
def encodeRef (opcode : Word) (ref : Ref) (n : Word) : Descriptor :=
  { w0 := packW0 opcode ref.isSome false false, w1 := ref.getD 0, w2 := n }

/-- A descriptor whose operand is a number only. -/
def encodeNum (opcode : Word) (n : Word) : Descriptor :=
  { w0 := packW0 opcode false false false, w1 := 0, w2 := n }

/-- A descriptor whose operand is a window: `cb` sets `SRC = 1` with `AP = 0`, `A = 0`, `N = 0` (R102). -/
def encodeWindow (opcode : Word) (w : WindowOp) (sink : Bool) : Descriptor :=
  match w with
  | .lin ref n => { w0 := packW0 opcode ref.isSome false sink, w1 := ref.getD 0, w2 := n }
  | .cb => { w0 := packW0 opcode false true sink, w1 := 0, w2 := 0 }

/-- The three words of a command (R102). -/
def encode (i : Instr) : Descriptor :=
  match i with
  | .crc16 ref n => encodeRef i.opcode ref n
  | .cbInit ref n => encodeRef i.opcode ref n
  | .cbAppend ref n => encodeRef i.opcode ref n
  | .cbConsume ref n => encodeRef i.opcode ref n
  | .encInit ref n => encodeRef i.opcode ref n
  | .encBuild ref n => encodeRef i.opcode ref n
  | .frameSize n => encodeNum i.opcode n
  | .encSetCounter n => encodeNum i.opcode n
  | .decode w => encodeWindow i.opcode w false
  | .scan w sink => encodeWindow i.opcode w sink
  | .rdReg n => encodeNum i.opcode n

/-! ## Listing syntax (R102) -/

/-- `<ref> ::= @<address> | null`, numbers in decimal. -/
def Ref.listing : Ref → String
  | none => "null"
  | some a => "@" ++ toString a.toNat

/-- `lin <ref>, <n>` or `cb`. -/
def WindowOp.listing : WindowOp → String
  | .lin ref n => "lin " ++ Ref.listing ref ++ ", " ++ toString n.toNat
  | .cb => "cb"

/-- A command as a line of R102's listing. -/
def Instr.listing : Instr → String
  | .crc16 ref n => "CRC16 " ++ Ref.listing ref ++ ", " ++ toString n.toNat
  | .cbInit ref n => "CB_INIT " ++ Ref.listing ref ++ ", " ++ toString n.toNat
  | .cbAppend ref n => "CB_APPEND " ++ Ref.listing ref ++ ", " ++ toString n.toNat
  | .cbConsume ref n => "CB_CONSUME " ++ Ref.listing ref ++ ", " ++ toString n.toNat
  | .encInit ref n => "ENC_INIT " ++ Ref.listing ref ++ ", " ++ toString n.toNat
  | .encBuild ref n => "ENC_BUILD " ++ Ref.listing ref ++ ", " ++ toString n.toNat
  | .frameSize n => "FRAME_SIZE " ++ toString n.toNat
  | .encSetCounter n => "ENC_SET_COUNTER " ++ toString n.toNat
  | .decode w => "DECODE " ++ WindowOp.listing w
  | .scan w sink => "SCAN " ++ WindowOp.listing w ++ (if sink then ", sink" else ", nosink")
  | .rdReg n => "RD_REG " ++ toString n.toNat

/-! ## A descriptor as one number -/

/-- The descriptor whose bits are the low `nbits` bits of `w`, every bit above 0: `W0` is bits 31..0, `W1` bits
63..32, `W2` bits 95..64. Log entry 18. -/
def Descriptor.ofBits (nbits w : Nat) : Descriptor :=
  { w0 := BitVec.ofNat 32 (w % 2 ^ nbits)
    w1 := BitVec.ofNat 32 (w % 2 ^ nbits / 4294967296)
    w2 := BitVec.ofNat 32 (w % 2 ^ nbits / 18446744073709551616) }

/-- What the decoder reads from a descriptor given as a number. -/
def decodeTableWord (nbits w : Nat) : Option Instr :=
  match decode (Descriptor.ofBits nbits w) with
  | .ok i => some i
  | .error _ => none

end Sys2Proof
end

