-- ==== Sys2Proof/Config.lean ====
section
/-! DEFINITION. The implementation parameters of the block (00_scope.md R7, R8) and the one free value. -/

namespace Sys2Proof

/-- The open parameters of R8 (93_implementation_defined.md U7: `parameter`). State holds one such record that no
step changes, so a statement about every state is a statement about every choice of parameters. -/
structure Config where
  /-- `PREAMBLE0` -/
  preamble0 : Byte
  /-- `PREAMBLE1` -/
  preamble1 : Byte
  /-- `CRC_POLY` -/
  crcPoly : Half
  /-- `CRC_INIT` -/
  crcInit : Half
  /-- `MAX_PAYLOAD` -/
  maxPayload : Half
  deriving DecidableEq, Repr

/-- The default column of R8. DESIGN CHOICE of the spec (D5, D6, D7); log entry 6. -/
def Config.defaults : Config :=
  { preamble0 := 0xFA, preamble1 := 0xCE, crcPoly := 0x1021, crcInit := 0xFFFF, maxPayload := 65525 }

/-- `MIN_FRAME` of R7: header, empty payload, payload checksum. -/
abbrev minFrame : Nat := 10

/-- The size of caller memory, 2^32 bytes (R9, R50). -/
abbrev memSize : Nat := 4294967296

/-- FREE VALUE: what a byte of `MEM` holds that nobody has written (70_reset_and_hazards.md R324,
93_implementation_defined.md U4: "any value, but a fixed one"). No body: no proof can see it. Log entry 5. -/
opaque Config.unwrittenByte : Nat → Byte

end Sys2Proof
end

