-- ==== Sys2Proof/Machine/State.lean ====
section
/-! DEFINITION. The state of the block (10_state.md), of the caller memory it works on (20_memory.md R50), and the
inputs and outputs of a step (10_state.md R36). Plain data throughout. -/

namespace Sys2Proof.Machine

/-! ## The three register groups (R22, R24, R26) -/

/-- The circular byte buffer's registers (R22). -/
structure CircBuf where
  /-- `CB_VALID`: a CB_INIT has succeeded since reset -/
  valid : Bool
  /-- `CB_BASE`: address of the first storage byte -/
  base : Word
  /-- `CB_CAP`: capacity in bytes -/
  cap : Word
  /-- `CB_APP`: append cursor -/
  app : Word
  /-- `CB_CON`: consume cursor -/
  con : Word
  /-- `CB_FREE`: free-space counter -/
  free : Word
  deriving DecidableEq, Repr

/-- The frame encoder's registers (R24). -/
structure Encoder where
  /-- `ENC_VALID`: an ENC_INIT has succeeded since reset -/
  valid : Bool
  /-- `ENC_BASE`: address of the destination buffer -/
  base : Word
  /-- `ENC_CAP`: its capacity in bytes -/
  cap : Word
  /-- `ENC_COUNTER`: "the next frame_counter to assign" -/
  counter : Half
  deriving DecidableEq, Repr

/-- `SC_STOP`, why the last scan stopped (R26). "5..7 never occur": there is no such value. -/
inductive StopReason where
  | none | noPreamble | tooShort | incomplete | absent
  deriving DecidableEq, Repr

/-- The stream scanner's registers (R26). -/
structure Scanner where
  /-- `SC_CURSOR`: offset from the start of the stream -/
  cursor : Word
  /-- `SC_COUNT`: frames decoded by the last scan -/
  count : Word
  /-- `SC_STOP` -/
  stop : StopReason
  deriving DecidableEq, Repr

/-! ## Outputs of a step (R36) -/

/-- The eight error kinds (60_exceptions.md R281). -/
inductive ErrorKind where
  | nullPointer | bufferTooSmall | insufficientSpace | payloadTooLarge
  | incompleteFrame | invalidPreamble | invalidHeaderCrc | invalidPayloadCrc
  deriving DecidableEq, Repr

/-- A response record (30_encoding.md R100). -/
structure Response where
  /-- `STATUS` -/
  status : BitVec 8
  r0 : Word
  r1 : Word
  r2 : Word
  r3 : Word
  deriving DecidableEq, Repr

/-- `SRC` of a frame record: which kind of window its payload reference refers to (R101). -/
inductive Source where
  | lin | cb
  deriving DecidableEq, Repr

/-- A frame record (30_encoding.md R101). -/
structure FrameRecord where
  /-- `CONSUMED` -/
  consumed : Word
  /-- `PAYLOAD_REF` -/
  payloadRef : Word
  /-- `COUNTER` -/
  counter : Half
  /-- `PAYLOAD_SIZE` -/
  payloadSize : Half
  /-- `HEADER_CRC` -/
  headerCrc : Half
  /-- `PAYLOAD_CRC` -/
  payloadCrc : Half
  /-- `SRC` -/
  src : Source
  deriving DecidableEq, Repr

/-! ## Inputs of a step (R36) -/

/-- What the host may present to the block, one at a time: a command (30_encoding.md R95), the reset input between
commands (70_reset_and_hazards.md R320), or a byte it stores in `MEM` between commands (20_memory.md R50, R64).
DESIGN CHOICE; log entries 1, 9, 21. -/
inductive Input where
  | command (d : Descriptor)
  | reset
  | store (a : Word) (b : Byte)
  deriving DecidableEq, Repr

/-! ## The whole state -/

/-- Caller memory `MEM` (20_memory.md R50): the bytes written so far, by address. Canonical form: addresses strictly
rising. An unlisted address holds no value the model knows: reading it gives the free value of its address
(`Config.unwrittenByte`). DESIGN CHOICE of form; log entry 5. -/
abbrev Memory := List Host.Cell

/-- The machine (INVENTORY.md, '## State'). -/
structure State where
  /-- circular byte buffer registers (R22) -/
  cb : CircBuf
  /-- frame encoder registers (R24) -/
  enc : Encoder
  /-- stream scanner registers (R26) -/
  sc : Scanner
  /-- the parameters, readable as configuration registers (R31); no step changes them -/
  cfg : Config
  /-- caller memory (R50) -/
  mem : Memory
  /-- what the host has still to present, oldest first (the model's own field; log entry 1) -/
  inputs : List Input
  /-- the response of the last command since reset (the model's own field; log entry 3) -/
  response : Option Response
  /-- the records delivered to the sink since reset, oldest first (the model's own field; log entry 4) -/
  sink : List FrameRecord
  deriving DecidableEq, Repr

/-- The block never faults: the spec gives it no exception, trap or stuck state, and every error it names is a
response (60_exceptions.md R280, R290, R294). Nothing raises one. Safe; log entry 19. -/
inductive Fault where
  deriving DecidableEq, Repr

/-- Why a command has no meaning. -/
inductive Refusal where
  /-- raised by exec for a command that has no meaning yet; safe -/
  | notModelled (mnemonic : String)
  /-- raised by CRC16, CB_INIT, CB_APPEND, CB_CONSUME, ENC_INIT, ENC_BUILD, DECODE, SCAN for a region that runs past
  2^32 (20_memory.md R54, 93_implementation_defined.md U1: "the model refuses it"); safe -/
  | inadmissibleRegion
  /-- raised by CB_APPEND, CB_CONSUME, ENC_BUILD when source and destination share a byte (20_memory.md R61,
  93_implementation_defined.md U2: "the model refuses it"); safe -/
  | overlappingRegions
  deriving DecidableEq, Repr

/-- The machine right after reset (10_state.md R35, 70_reset_and_hazards.md R321): every register 0, nothing written
in `MEM`, no input presented, no response, nothing delivered. The parameters stand at R8's defaults (log entry 6). -/
def State.reset : State where
  cb := { valid := false, base := 0, cap := 0, app := 0, con := 0, free := 0 }
  enc := { valid := false, base := 0, cap := 0, counter := 0 }
  sc := { cursor := 0, count := 0, stop := .none }
  cfg := Config.defaults
  mem := []
  inputs := []
  response := none
  sink := []

end Sys2Proof.Machine
end

