-- ==== Sys2Proof/Machine/Flags.lean ====
section
/-! DEFINITION. The block has no flags or condition codes (10_state.md R29): "the outcome of a command is its response
STATUS". This file holds what takes their place: the status codes (60_exceptions.md R281) and the response records
(30_encoding.md R100), and the code of `SC_STOP` (10_state.md R26). -/

namespace Sys2Proof.Machine

/-- The status code of an error kind (R281). -/
def ErrorKind.code : ErrorKind → BitVec 8
  | .nullPointer => 1
  | .bufferTooSmall => 2
  | .insufficientSpace => 3
  | .payloadTooLarge => 4
  | .incompleteFrame => 5
  | .invalidPreamble => 6
  | .invalidHeaderCrc => 7
  | .invalidPayloadCrc => 8

/-- `STATUS = 0` with the given value fields; "the fields a command does not define are 0" (R100). -/
def Response.ok (r0 r1 r2 r3 : Word) : Response := { status := 0, r0 := r0, r1 := r1, r2 := r2, r3 := r3 }

/-- `OK()`: success with every value field 0 (R100). -/
def Response.done : Response := Response.ok 0 0 0 0

/-- The response of an error: its code, "with every value field zero" (00_scope.md R15, R100). -/
def Response.error (k : ErrorKind) : Response := { status := k.code, r0 := 0, r1 := 0, r2 := 0, r3 := 0 }

/-- The response of an illegal command (30_encoding.md R99, 60_exceptions.md R291). -/
def Response.illegal : Response := { status := 0xFF, r0 := 0, r1 := 0, r2 := 0, r3 := 0 }

/-- The 3-bit code of `SC_STOP` (R26). -/
def StopReason.code : StopReason → BitVec 3
  | .none => 0
  | .noPreamble => 1
  | .tooShort => 2
  | .incomplete => 3
  | .absent => 4

/-- A one-bit register read as a word: "[31:1] read as 0" (R30). -/
def bitWord (b : Bool) : Word := if b then 1 else 0

end Sys2Proof.Machine
end

