-- ==== Sys2Proof/Machine/Ops.lean ====
section
/-! DEFINITION. The named operations every meaning is built from: byte memory (20_memory.md), regions, updates of
State, and how a command ends (its response, an error, an illegal command), and the two host actions that are not
commands (a store between commands, reset). -/

namespace Sys2Proof.Machine

/-! ## Byte memory (20_memory.md R50, R55; 00_scope.md R14) -/

/-- The byte written last at an address, if any was. -/
def Memory.lookup : Memory → Nat → Option Byte
  | [], _ => none
  | (a, b) :: m, x => if x = a then some b else Memory.lookup m x

/-- `MemRead(x, 1)`: the byte last written (R50); where nobody wrote, the free value of the address (R324, U4). -/
def Memory.read (m : Memory) (x : Nat) : Byte := (m.lookup x).getD (Config.unwrittenByte x)

/-- `MemWrite(x, 1, v)` (R14), keeping the addresses strictly rising. -/
def Memory.write : Memory → Nat → Byte → Memory
  | [], x, v => [(x, v)]
  | (a, b) :: m, x, v =>
    if x < a then (x, v) :: (a, b) :: m
    else if x = a then (x, v) :: m
    else (a, b) :: Memory.write m x v

/-- The `n` bytes at the addresses `f 0 .. f (n-1)`. -/
def Memory.readAt (m : Memory) (f : Nat → Nat) (n : Nat) : List Byte := (List.range n).map fun i => m.read (f i)

/-- Stores the bytes `bs` at the addresses `f 0, f 1, ..`, in increasing index (R14). -/
def Memory.writeAt (m : Memory) (f : Nat → Nat) : List Byte → Memory
  | [] => m
  | b :: bs => Memory.writeAt (m.write (f 0) b) (fun i => f (i + 1)) bs

/-- The canonical form: addresses strictly rising, all inside the 2^32 bytes of `MEM` (R50). -/
abbrev Memory.wf (m : Memory) : Prop := m.Pairwise (fun c d => c.1 < d.1) ∧ ∀ c ∈ m, c.1 < memSize

/-- The addresses of a region, `a, a+1, ..` (R14, R16). -/
def span (a : Nat) (i : Nat) : Nat := a + i

/-- The addresses of storage indices `(start + i) mod cap` (41_cbuf.md R143, R144; 20_memory.md R58). -/
def ring (base cap start : Nat) (i : Nat) : Nat := base + (start + i) % cap

/-! ## Regions (00_scope.md R16, 20_memory.md R54, R61) -/

/-- `(addr, n)` is admissible iff `addr + n <= 2^32` (R54). -/
abbrev Admissible (a n : Word) : Prop := a.toNat + n.toNat ≤ memSize

/-- The regions `(a, n)` and `(b, m)` share a byte (R61). A region of length 0 shares none. -/
abbrev Overlap (a n b m : Nat) : Prop := 0 < n ∧ 0 < m ∧ a < b + m ∧ b < a + n

/-! ## Updates of State -/

def State.setCb (s : State) (c : CircBuf) : State := { s with cb := c }
def State.setEnc (s : State) (e : Encoder) : State := { s with enc := e }
def State.setSc (s : State) (c : Scanner) : State := { s with sc := c }
def State.setMem (s : State) (m : Memory) : State := { s with mem := m }
def State.setInputs (s : State) (l : List Input) : State := { s with inputs := l }
def State.setResponse (s : State) (r : Response) : State := { s with response := some r }
/-- Presents records to the sink, in order (44_scanner.md R236). -/
def State.deliver (s : State) (rs : List FrameRecord) : State := { s with sink := s.sink ++ rs }

/-- The occupied bytes, `CB_CAP - CB_FREE` (00_scope.md R19, 10_state.md R23). -/
def State.occupied (s : State) : Nat := s.cb.cap.toNat - s.cb.free.toNat

/-- The address of the `i`-th occupied byte, oldest first (20_memory.md R58, 41_cbuf.md R141). -/
def State.headSlot (s : State) : Nat → Nat := ring s.cb.base.toNat s.cb.cap.toNat s.cb.con.toNat

/-- The address of the `i`-th byte to be appended (41_cbuf.md R143). -/
def State.tailSlot (s : State) : Nat → Nat := ring s.cb.base.toNat s.cb.cap.toNat s.cb.app.toNat

/-- `cb_content`, oldest byte first (41_cbuf.md R141). -/
def State.content (s : State) : List Byte := s.mem.readAt s.headSlot s.occupied

/-! ## How a command ends (00_scope.md R15, 60_exceptions.md R290) -/

/-- The outcome of one step of this machine. -/
abbrev Result := Host.Outcome State Fault Refusal

/-- `return OK(fields)`: the command ends with the response, on the state its effects left. -/
def answer (r : Response) (s : State) : Result := .next (s.setResponse r)

/-- `raise <Kind>`: the block's one form of exception. The command ends at once; no register and no byte changes and
nothing is delivered; there is no handler, nothing is saved and nothing is returned from (R15, R290, R294). -/
def raise (k : ErrorKind) (s : State) : Result := answer (Response.error k) s

/-- An illegal command: `STATUS = 0xFF`, no effect (30_encoding.md R99, 60_exceptions.md R291). -/
def illegalCommand (s : State) : Result := answer Response.illegal s

/-! ## Host actions that are not commands -/

/-- Reset asserted between commands (70_reset_and_hazards.md R320, R321): every register at its reset value, the
parameters and `MEM` untouched, what the host has still to present untouched. Log entry 9. -/
def applyReset (s : State) : State := { State.reset with cfg := s.cfg, mem := s.mem, inputs := s.inputs }

/-- A byte the host stores in `MEM` between commands (20_memory.md R50, R64, 70_reset_and_hazards.md R327). -/
def hostStore (a : Word) (b : Byte) (s : State) : State := s.setMem (s.mem.write a.toNat b)

end Sys2Proof.Machine
end

