-- ==== Sys2Proof/Machine/Operands.lean ====
section
/-! DEFINITION. Window operands (00_scope.md R16, 20_memory.md R58, R59): how DECODE and SCAN find their bytes. The
only other operand forms are a reference (`Ref`) and a number, used as they stand (30_encoding.md R95). -/

namespace Sys2Proof.Machine

/-- A window (R16): a region in increasing address order, or the occupied bytes of the circular buffer. -/
inductive Window where
  | lin (addr n : Word)
  | cb
  deriving DecidableEq, Repr

/-- The window an operand names; `none` when it is absent: the reference is (`AP = 0`), or the circular buffer has no
storage (43_decoder.md R204, 44_scanner.md R235). -/
def windowOf (w : WindowOp) (s : State) : Option Window :=
  match w with
  | .lin none _ => none
  | .lin (some a) n => some (.lin a n)
  | .cb => if s.cb.valid then some .cb else none

/-- A `LIN` window is a region the command must find admissible (20_memory.md R54, R60). -/
def Window.admissible (w : Window) : Bool :=
  match w with
  | .lin a n => decide (Admissible a n)
  | .cb => true

/-- `WinLen` (R58). -/
def Window.len (s : State) (w : Window) : Nat :=
  match w with
  | .lin _ n => n.toNat
  | .cb => s.occupied

/-- The address of byte `i` of a window (R58). -/
def Window.slot (s : State) (w : Window) (i : Nat) : Nat :=
  match w with
  | .lin a _ => span a.toNat i
  | .cb => s.headSlot i

/-- `WinSeq` (R58). -/
def Window.bytes (s : State) (w : Window) : List Byte := s.mem.readAt (w.slot s) (w.len s)

/-- `WinRef` (R59): an address of `MEM`, or an index into the storage. -/
def Window.ref (s : State) (w : Window) (i : Nat) : Word :=
  match w with
  | .lin a _ => BitVec.ofNat 32 (a.toNat + i)
  | .cb => BitVec.ofNat 32 ((s.cb.con.toNat + i) % s.cb.cap.toNat)

/-- The kind of a window, for `SRC` of a frame record (30_encoding.md R101). -/
def Window.source (w : Window) : Source :=
  match w with
  | .lin _ _ => .lin
  | .cb => .cb

end Sys2Proof.Machine
end

