-- ==== Sys2Proof/Machine/CBuf.lean ====
section
/-! DEFINITION. The circular byte buffer (41_cbuf.md): CB_INIT, CB_APPEND, CB_CONSUME. -/

namespace Sys2Proof.Machine

/-- The effect of a successful CB_INIT (R142): the storage zero-filled and attached, the buffer empty. -/
def cbInitEffect (a n : Word) (s : State) : State :=
  (s.setMem (s.mem.writeAt (span a.toNat) (List.replicate n.toNat 0))).setCb
    { valid := true, base := a, cap := n, app := 0, con := 0, free := n }

/-- CB_INIT (R142). -/
def execCbInit (ref : Ref) (n : Word) (s : State) : Result :=
  match ref with
  | none => raise .nullPointer s
  | some a =>
    if n.toNat = 0 then raise .bufferTooSmall s
    else if ¬ Admissible a n then .refused .inadmissibleRegion
    else answer .done (cbInitEffect a n s)

/-- The effect of a successful CB_APPEND (R143): `n` bytes copied in at the tail. The two loops of the rule are the one
indexed copy it gives for both of them: `MEM[CB_BASE + ((CB_APP + i) mod CB_CAP)] <- MEM[A + i]`. Log entry 15. -/
def cbAppendEffect (a n : Word) (s : State) : State :=
  (s.setMem (s.mem.writeAt s.tailSlot (s.mem.readAt (span a.toNat) n.toNat))).setCb
    { s.cb with
      app := BitVec.ofNat 32 ((s.cb.app.toNat + n.toNat) % s.cb.cap.toNat)
      free := BitVec.ofNat 32 (s.cb.free.toNat - n.toNat) }

/-- CB_APPEND (R143). The error checks come before the refusals; log entries 7 and 8. -/
def execCbAppend (ref : Ref) (n : Word) (s : State) : Result :=
  match ref with
  | none => raise .nullPointer s
  | some a =>
    if ¬ s.cb.valid then raise .nullPointer s
    else if n.toNat > s.cb.free.toNat then raise .insufficientSpace s
    else if ¬ Admissible a n then .refused .inadmissibleRegion
    else if Overlap a.toNat n.toNat s.cb.base.toNat s.cb.cap.toNat then .refused .overlappingRegions
    else answer .done (cbAppendEffect a n s)

/-- The effect of a successful CB_CONSUME (R144): `n` bytes copied out from the head. The storage bytes are not
changed. Log entry 15. -/
def cbConsumeEffect (a n : Word) (s : State) : State :=
  (s.setMem (s.mem.writeAt (span a.toNat) (s.mem.readAt s.headSlot n.toNat))).setCb
    { s.cb with
      con := BitVec.ofNat 32 ((s.cb.con.toNat + n.toNat) % s.cb.cap.toNat)
      free := BitVec.ofNat 32 (s.cb.free.toNat + n.toNat) }

/-- CB_CONSUME (R144). The error checks come before the refusals; log entries 7 and 8. -/
def execCbConsume (ref : Ref) (n : Word) (s : State) : Result :=
  match ref with
  | none => raise .nullPointer s
  | some a =>
    if ¬ s.cb.valid then raise .nullPointer s
    else if n.toNat > s.occupied then raise .insufficientSpace s
    else if ¬ Admissible a n then .refused .inadmissibleRegion
    else if Overlap a.toNat n.toNat s.cb.base.toNat s.cb.cap.toNat then .refused .overlappingRegions
    else answer .done (cbConsumeEffect a n s)

end Sys2Proof.Machine
end

