-- ==== Sys2Proof/Machine/Crc.lean ====
section
/-! DEFINITION. The checksum engine (40_crc.md): the table, `crc16`, the bit-serial form, and the command CRC16. -/

namespace Sys2Proof.Machine

/-- One shift of R121: to the left, with `CRC_POLY` folded in when bit 15 was set. -/
def crcShift (poly r : Half) : Half := if r.getLsbD 15 then (r <<< 1) ^^^ poly else r <<< 1

/-- `k` shifts. -/
def crcShifts (poly : Half) : Nat → Half → Half
  | 0, r => r
  | k + 1, r => crcShifts poly k (crcShift poly r)

/-- `TABLE[i]` (R121): the index byte in the high byte, shifted 8 times. -/
def crcTable (poly : Half) (i : Byte) : Half := crcShifts poly 8 (i.setWidth 16 <<< 8)

/-- Folds one byte into the register by table lookup (R122). -/
def crcByte (poly : Half) (crc : Half) (b : Byte) : Half := (crc <<< 8) ^^^ crcTable poly (crc.extractLsb' 8 8 ^^^ b)

/-- `crc16_from(c0, s)` (R128 (c)): the loop of R122 started at `c0`. -/
def crcFrom (poly : Half) (c0 : Half) (s : List Byte) : Half := s.foldl (crcByte poly) c0

/-- `crc16(s)` (R122). No reflection, no final XOR. -/
def crc16 (c : Config) (s : List Byte) : Half := crcFrom c.crcPoly c.crcInit s

/-- Folds one byte in without a table (R123). -/
def crcByteSerial (poly : Half) (crc : Half) (b : Byte) : Half := crcShifts poly 8 (crc ^^^ (b.setWidth 16 <<< 8))

/-- The bit-serial form (R123). -/
def crc16Serial (c : Config) (s : List Byte) : Half := s.foldl (crcByteSerial c.crcPoly) c.crcInit

/-- CRC16 (R127): the checksum of a region. -/
def execCrc16 (ref : Ref) (n : Word) (s : State) : Result :=
  match ref with
  | none => raise .nullPointer s
  | some a =>
    if ¬ Admissible a n then .refused .inadmissibleRegion
    else answer (.ok ((crc16 s.cfg (s.mem.readAt (span a.toNat) n.toNat)).setWidth 32) 0 0 0) s

end Sys2Proof.Machine
end

