-- ==== Sys2Proof/Machine/Frame.lean ====
section
/-! DEFINITION. The wire frame (30_encoding.md R81 to R87): byte order, the header, the bytes of a frame, and the
well-formedness and validity of a byte sequence. -/

namespace Sys2Proof.Machine

/-- `le16(v)`: low byte first (00_scope.md R12, 20_memory.md R51). -/
def le16 (v : Half) : List Byte := [v.extractLsb' 0 8, v.extractLsb' 8 8]

/-- Element `i` of a byte sequence (R12); only used inside its length. -/
def byteAt (w : List Byte) (i : Nat) : Byte := w.getD i 0

/-- `rd16le(w, i)` (R12): `w[i] + 256 * w[i+1]`. -/
def rd16le (w : List Byte) (i : Nat) : Half := byteAt w (i + 1) ++ byteAt w i

/-- `header6(c, S)` (R84): preamble, counter, size. -/
def header6 (c : Config) (counter size : Half) : List Byte :=
  [c.preamble0, c.preamble1] ++ le16 counter ++ le16 size

/-- `frame_bytes(c, P)` (R84). -/
def frameBytes (c : Config) (counter : Half) (p : List Byte) : List Byte :=
  header6 c counter (BitVec.ofNat 16 p.length)
    ++ le16 (crc16 c (header6 c counter (BitVec.ofNat 16 p.length)))
    ++ p ++ le16 (crc16 c p)

/-- The two preamble bytes stand at position `q` of `w` (44_scanner.md R231: `q + 2 <= n`). -/
def preambleAt (c : Config) (w : List Byte) (q : Nat) : Bool :=
  decide (q + 2 ≤ w.length) && byteAt w q == c.preamble0 && byteAt w (q + 1) == c.preamble1

/-- `wellformed(w)` (R87). -/
def wellFormedFrame (c : Config) (w : List Byte) : Prop :=
  minFrame ≤ w.length ∧ byteAt w 0 = c.preamble0 ∧ byteAt w 1 = c.preamble1 ∧
    (rd16le w 4).toNat ≤ c.maxPayload.toNat

/-- `valid(w)` (R87): the whole frame is there and both checksums match recomputation. -/
def validFrame (c : Config) (w : List Byte) : Prop :=
  minFrame ≤ w.length ∧ (rd16le w 4).toNat + 10 ≤ w.length ∧ rd16le w 6 = crc16 c (w.take 6) ∧
    rd16le w (8 + (rd16le w 4).toNat) = crc16 c ((w.drop 8).take (rd16le w 4).toNat)

end Sys2Proof.Machine
end

