-- ==== Sys2Proof/Machine/Encoder.lean ====
section
/-! DEFINITION. The frame encoder (42_encoder.md): ENC_INIT, ENC_BUILD, FRAME_SIZE, ENC_SET_COUNTER. -/

namespace Sys2Proof.Machine

/-- ENC_INIT (R171): attaches the destination buffer and zeroes the counter; writes no byte. -/
def execEncInit (ref : Ref) (n : Word) (s : State) : Result :=
  match ref with
  | none => raise .nullPointer s
  | some a =>
    if n.toNat < minFrame then raise .bufferTooSmall s
    else if ¬ Admissible a n then .refused .inadmissibleRegion
    else answer .done (s.setEnc { valid := true, base := a, cap := n, counter := 0 })

/-- The effect of a successful ENC_BUILD (R172): one frame written at `ENC_BASE`, the counter incremented modulo 65536.
The rule's four stores, one after the other, are the store of their concatenation. -/
def encBuildEffect (a n : Word) (s : State) : State :=
  (s.setMem (s.mem.writeAt (span s.enc.base.toNat)
    (frameBytes s.cfg s.enc.counter (s.mem.readAt (span a.toNat) n.toNat)))).setEnc
      { s.enc with counter := s.enc.counter + 1 }

/-- ENC_BUILD (R172). The error checks come before the refusals; log entries 7 and 8. -/
def execEncBuild (ref : Ref) (n : Word) (s : State) : Result :=
  match ref with
  | none => raise .nullPointer s
  | some a =>
    if ¬ s.enc.valid then raise .nullPointer s
    else if n.toNat > s.cfg.maxPayload.toNat then raise .payloadTooLarge s
    else if n.toNat + 10 > s.enc.cap.toNat then raise .bufferTooSmall s
    else if ¬ Admissible a n ∨ ¬ Admissible s.enc.base s.enc.cap then .refused .inadmissibleRegion
    else if Overlap a.toNat n.toNat s.enc.base.toNat (n.toNat + 10) then .refused .overlappingRegions
    else answer (.ok (n + 10) 0 0 0) (encBuildEffect a n s)

/-- FRAME_SIZE (R173): `(N + 10) mod 2^32`. -/
def execFrameSize (n : Word) (s : State) : Result := answer (.ok (n + 10) 0 0 0) s

/-- ENC_SET_COUNTER (R174): `ENC_COUNTER <- N[15:0]`. -/
def execEncSetCounter (n : Word) (s : State) : Result :=
  answer .done (s.setEnc { s.enc with counter := n.extractLsb' 0 16 })

end Sys2Proof.Machine
end

