-- ==== Sys2Proof/Machine/Decoder.lean ====
section
/-! DEFINITION. The frame decoder (43_decoder.md): `decode` of a byte sequence, the frame record, and DECODE. -/

namespace Sys2Proof.Machine

/-- What `decode` yields on success (R201 step 6). -/
structure Frame where
  counter : Half
  size : Half
  hcrc : Half
  pcrc : Half
  deriving DecidableEq, Repr

/-- `consumed`, the total frame size (R201 steps 4 and 6). -/
def Frame.total (f : Frame) : Nat := f.size.toNat + 10

/-- `decode(w)` (R201): six steps, the first failing one decides. No test of the size against `MAX_PAYLOAD` (R205,
90_conflicts.md C1). -/
def decodeFrame (c : Config) (w : List Byte) : Except ErrorKind Frame :=
  if w.length < 10 then .error .incompleteFrame
  else if byteAt w 0 ≠ c.preamble0 ∨ byteAt w 1 ≠ c.preamble1 then .error .invalidPreamble
  else if crc16 c (w.take 6) ≠ rd16le w 6 then .error .invalidHeaderCrc
  else if w.length < (rd16le w 4).toNat + 10 then .error .incompleteFrame
  else if crc16 c ((w.drop 8).take (rd16le w 4).toNat) ≠ rd16le w (8 + (rd16le w 4).toNat) then
    .error .invalidPayloadCrc
  else .ok { counter := rd16le w 2, size := rd16le w 4, hcrc := rd16le w 6, pcrc := rd16le w (8 + (rd16le w 4).toNat) }

/-- The frame record of a frame found at offset `p` of a window (R203, 30_encoding.md R101). -/
def frameRecord (s : State) (w : Window) (p : Nat) (f : Frame) : FrameRecord where
  consumed := BitVec.ofNat 32 f.total
  payloadRef := w.ref s (p + 8)
  counter := f.counter
  payloadSize := f.size
  headerCrc := f.hcrc
  payloadCrc := f.pcrc
  src := w.source

/-- A frame record packed in `R0..R3` (R101). -/
def FrameRecord.response (r : FrameRecord) : Response :=
  .ok r.consumed r.payloadRef (r.payloadSize ++ r.counter) (r.payloadCrc ++ r.headerCrc)

/-- DECODE (R204): one candidate frame at the start of a window. Nothing is consumed. -/
def execDecode (w : WindowOp) (s : State) : Result :=
  match windowOf w s with
  | none => raise .nullPointer s
  | some W =>
    if ¬ W.admissible then .refused .inadmissibleRegion
    else
      match decodeFrame s.cfg (W.bytes s) with
      | .error k => raise k s
      | .ok f => answer (frameRecord s W 0 f).response s

end Sys2Proof.Machine
end

