-- ==== Sys2Proof/Machine/Scanner.lean ====
section
/-! DEFINITION. The stream scanner (44_scanner.md): the state machine of R233, which is how the block runs it, the loop
of R232, and SCAN. -/

namespace Sys2Proof.Machine

/-- The scanner's phase (R233); not visible between commands. -/
inductive Phase where
  | search | candidate | done
  deriving DecidableEq, Repr

/-- A scan under way: the phase, the three registers as unbounded numbers, and the frames found so far, each with its
offset, oldest first. -/
structure ScanRun where
  phase : Phase
  cursor : Nat
  count : Nat
  stop : StopReason
  hits : List (Nat × Frame)
  deriving DecidableEq, Repr

/-- "The machine starts in SEARCH with SC_CURSOR = 0, SC_COUNT = 0" (R233). -/
def scanStart : ScanRun := { phase := .search, cursor := 0, count := 0, stop := .none, hits := [] }

/-- One row of R233's table. -/
def scanTick (c : Config) (w : List Byte) (r : ScanRun) : ScanRun :=
  match r.phase with
  | .search =>
    if r.cursor + 2 > w.length then { r with stop := .noPreamble, phase := .done }
    else if preambleAt c w r.cursor then { r with phase := .candidate }
    else { r with cursor := r.cursor + 1 }
  | .candidate =>
    if w.length - r.cursor < 10 then { r with stop := .tooShort, phase := .done }
    else
      match decodeFrame c (w.drop r.cursor) with
      | .ok f =>
        { r with count := r.count + 1, cursor := r.cursor + f.total, hits := r.hits ++ [(r.cursor, f)], phase := .search }
      | .error .incompleteFrame => { r with stop := .incomplete, phase := .done }
      | .error _ => { r with cursor := r.cursor + 1, phase := .search }
  | .done => r

/-- `k` rows, one after the other. -/
def scanTicks (c : Config) (w : List Byte) : Nat → ScanRun → ScanRun
  | 0, r => r
  | k + 1, r => scanTicks c w k (scanTick c w r)

/-- The whole scan of `w`. The cursor rises at least once in two rows and never passes the end (R237), so `2n + 2` rows
reach DONE. Log entry 16. -/
def scanStream (c : Config) (w : List Byte) : ScanRun := scanTicks c w (2 * w.length + 2) scanStart

/-- `find_preamble(w, from)` (R231), looking at no more than `fuel` positions. -/
def findPreamble (c : Config) (w : List Byte) : Nat → Nat → Option Nat
  | 0, _ => none
  | fuel + 1, q => if q + 2 > w.length then none else if preambleAt c w q then some q else findPreamble c w fuel (q + 1)

/-- The loop of R232, `fuel` passes at most; `none` when the fuel runs out. The same scan in the source's words, to be
compared with `scanStream`. -/
def scanLoop (c : Config) (w : List Byte) : Nat → Nat → List (Nat × Frame) → Option ScanRun
  | 0, _, _ => none
  | fuel + 1, cursor, hits =>
    match findPreamble c w (w.length + 1) cursor with
    | none =>
      some { phase := .done, cursor := if 1 ≤ w.length then max cursor (w.length - 1) else cursor,
             count := hits.length, stop := .noPreamble, hits := hits }
    | some p =>
      if w.length - p < 10 then
        some { phase := .done, cursor := p, count := hits.length, stop := .tooShort, hits := hits }
      else
        match decodeFrame c (w.drop p) with
        | .ok f => scanLoop c w fuel (p + f.total) (hits ++ [(p, f)])
        | .error .incompleteFrame =>
          some { phase := .done, cursor := p, count := hits.length, stop := .incomplete, hits := hits }
        | .error _ => scanLoop c w fuel (p + 1) hits

/-- The scanner registers a finished scan leaves (R232). -/
def ScanRun.registers (r : ScanRun) : Scanner :=
  { cursor := BitVec.ofNat 32 r.cursor, count := BitVec.ofNat 32 r.count, stop := r.stop }

/-- The records a finished scan delivers, in stream order (R232, R236). -/
def ScanRun.records (s : State) (W : Window) (r : ScanRun) : List FrameRecord :=
  r.hits.map fun h => frameRecord s W h.1 h.2

/-- SCAN (R234): every frame of a window. With an absent stream or sink it "fails silently (returns 0)" (R235). -/
def execScan (w : WindowOp) (sink : Bool) (s : State) : Result :=
  match windowOf w s with
  | none => answer .done (s.setSc { cursor := 0, count := 0, stop := .absent })
  | some W =>
    if ¬ sink then answer .done (s.setSc { cursor := 0, count := 0, stop := .absent })
    else if ¬ W.admissible then .refused .inadmissibleRegion
    else
      let r := scanStream s.cfg (W.bytes s)
      answer (.ok r.registers.count 0 0 0) ((s.setSc r.registers).deliver (r.records s W))

end Sys2Proof.Machine
end

