-- ==== Sys2Proof/Machine/System.lean ====
section
/-! DEFINITION. System commands (45_system.md): RD_REG. -/

namespace Sys2Proof.Machine

/-- The value of a register as RD_REG reads it (10_state.md R30, R31); unused high bits read as 0. -/
def regValue (r : Reg) (s : State) : Word :=
  match r with
  | .cbCtrl => bitWord s.cb.valid
  | .cbBase => s.cb.base
  | .cbCap => s.cb.cap
  | .cbApp => s.cb.app
  | .cbCon => s.cb.con
  | .cbFree => s.cb.free
  | .encCtrl => bitWord s.enc.valid
  | .encBase => s.enc.base
  | .encCap => s.enc.cap
  | .encCounter => s.enc.counter.setWidth 32
  | .scCursor => s.sc.cursor
  | .scCount => s.sc.count
  | .scStop => s.sc.stop.code.setWidth 32
  | .cfgMaxPayload => s.cfg.maxPayload.setWidth 32
  | .cfgPreamble => (s.cfg.preamble1 ++ s.cfg.preamble0).setWidth 32
  | .cfgCrc => s.cfg.crcInit ++ s.cfg.crcPoly

/-- RD_REG (R260): reads one register; an unlisted number makes the command illegal. -/
def execRdReg (n : Word) (s : State) : Result :=
  match Reg.ofNumber? n with
  | none => illegalCommand s
  | some r => answer (.ok (regValue r s) 0 0 0) s

end Sys2Proof.Machine
end

