-- ==== Sys2Proof/Machine/Dispatch.lean ====
section
/-! DEFINITION. One arm per command: its meaning (30_encoding.md R97). -/

namespace Sys2Proof.Machine

def exec (i : Instr) (s : State) : Host.Outcome State Fault Refusal :=
  match i with
  | .crc16 ref n => Sys2Proof.Machine.execCrc16 ref n s
  | .cbInit ref n => Sys2Proof.Machine.execCbInit ref n s
  | .cbAppend ref n => Sys2Proof.Machine.execCbAppend ref n s
  | .cbConsume ref n => Sys2Proof.Machine.execCbConsume ref n s
  | .encInit ref n => Sys2Proof.Machine.execEncInit ref n s
  | .encBuild ref n => Sys2Proof.Machine.execEncBuild ref n s
  | .frameSize n => Sys2Proof.Machine.execFrameSize n s
  | .encSetCounter n => Sys2Proof.Machine.execEncSetCounter n s
  | .decode w => Sys2Proof.Machine.execDecode w s
  | .scan w sink => Sys2Proof.Machine.execScan w sink s
  | .rdReg n => Sys2Proof.Machine.execRdReg n s

end Sys2Proof.Machine
end

