-- ==== Sys2Proof/Machine/Step.lean ====
section
/-! DEFINITION. One step: the block takes the oldest input the host presents (10_state.md R28, R36, 00_scope.md R17). -/

namespace Sys2Proof.Machine

/-- A command, whole: an illegal descriptor answers `STATUS = 0xFF` before everything else (60_exceptions.md R292),
any other is executed to completion (R17). -/
def runCommand (d : Descriptor) (s : State) : Result :=
  match decode d with
  | .ok i => exec i s
  | .error _ => illegalCommand s

/-- One step. With nothing presented the block is idle "and keeps all its state" (60_exceptions.md R299); log entry 2.
Otherwise it takes the oldest input: a command, the reset input (R320), or a host store (R50). -/
def step (s : State) : Host.Outcome State Fault Refusal :=
  match s.inputs with
  | [] => .next s
  | .command d :: rest => runCommand d (s.setInputs rest)
  | .reset :: rest => .next (applyReset (s.setInputs rest))
  | .store a b :: rest => .next (hostStore a b (s.setInputs rest))

/-- The host presents the descriptor whose bits are `w` as the very next input. Log entries 10 and 18. -/
def State.withFetchWord (s : State) (nbits w : Nat) : State :=
  s.setInputs (.command (Descriptor.ofBits nbits w) :: s.inputs)

end Sys2Proof.Machine
end

