-- ==== Sys2Proof/Safety.lean ====
section
/-! DEFINITION. The terms claims are stated in: the invariants the spec gives the state (10_state.md R23, R25, R26;
30_encoding.md R100, R101; 00_scope.md R8), and runs of several commands. -/

namespace Sys2Proof.Machine

/-! ## Invariants -/

/-- R23 (a) to (d). -/
abbrev CircBuf.inv (c : CircBuf) : Prop :=
  c.free.toNat ≤ c.cap.toNat ∧
  (c.valid = true →
    1 ≤ c.cap.toNat ∧ c.app.toNat < c.cap.toNat ∧ c.con.toNat < c.cap.toNat ∧
    c.base.toNat + c.cap.toNat ≤ memSize ∧
    c.app.toNat = (c.con.toNat + (c.cap.toNat - c.free.toNat)) % c.cap.toNat) ∧
  (c.valid = false → c.base = 0 ∧ c.cap = 0 ∧ c.app = 0 ∧ c.con = 0 ∧ c.free = 0)

/-- R25. -/
abbrev Encoder.inv (e : Encoder) : Prop :=
  (e.valid = true → 10 ≤ e.cap.toNat ∧ e.base.toNat + e.cap.toNat ≤ memSize) ∧
  (e.valid = false → e.base = 0 ∧ e.cap = 0)

/-- What the scanner registers say of a finished scan: "every decoded frame consumes at least 10 bytes" (44_scanner.md
R234), and cursor and count are 0 before any scan (R35) and after one whose stream or sink was absent (R235). -/
abbrev Scanner.inv (c : Scanner) : Prop :=
  10 * c.count.toNat ≤ c.cursor.toNat ∧
  (c.stop = .none ∨ c.stop = .absent → c.cursor = 0 ∧ c.count = 0)

/-- R100: `STATUS` is one of R281's codes, and a response that is no success carries no value. -/
abbrev Response.inv (r : Response) : Prop :=
  (r.status.toNat ≤ 8 ∨ r.status = 0xFF) ∧ (r.status ≠ 0 → r.r0 = 0 ∧ r.r1 = 0 ∧ r.r2 = 0 ∧ r.r3 = 0)

/-- R101: `CONSUMED` = `payload_size + 10`. -/
abbrev FrameRecord.inv (r : FrameRecord) : Prop := r.consumed.toNat = r.payloadSize.toNat + 10

/-- The constraints of R8 on the parameters: `CRC_INIT` is non-zero, and the checksum of "123456789" is 0x29B1. -/
abbrev Config.legal (c : Config) : Prop :=
  c.crcInit ≠ 0 ∧ crc16 c [0x31, 0x32, 0x33, 0x34, 0x35, 0x36, 0x37, 0x38, 0x39] = 0x29B1

/-- The invariant of the machine. -/
abbrev State.Inv (s : State) : Prop :=
  s.cb.inv ∧ s.enc.inv ∧ s.sc.inv ∧ Config.legal s.cfg ∧ s.mem.wf ∧
    (∀ r ∈ s.response, r.inv) ∧ ∀ r ∈ s.sink, r.inv

/-! ## Errors and stops -/

/-- The command reports the error `k`, and nothing but the response changes (60_exceptions.md R290). -/
abbrev Fails (i : Instr) (s : State) (k : ErrorKind) : Prop := exec i s = .next (s.setResponse (.error k))

/-- No check of the command fails and one of its regions runs past 2^32 (20_memory.md R54, R60; log entry 7). -/
def leavesMemory (i : Instr) (s : State) : Prop :=
  match i with
  | .crc16 (some a) n => ¬ Admissible a n
  | .cbInit (some a) n => n ≠ 0 ∧ ¬ Admissible a n
  | .cbAppend (some a) n => s.cb.valid = true ∧ n.toNat ≤ s.cb.free.toNat ∧ ¬ Admissible a n
  | .cbConsume (some a) n => s.cb.valid = true ∧ n.toNat ≤ s.occupied ∧ ¬ Admissible a n
  | .encInit (some a) n => 10 ≤ n.toNat ∧ ¬ Admissible a n
  | .encBuild (some a) n =>
    s.enc.valid = true ∧ n.toNat ≤ s.cfg.maxPayload.toNat ∧ n.toNat + 10 ≤ s.enc.cap.toNat ∧
      (¬ Admissible a n ∨ ¬ Admissible s.enc.base s.enc.cap)
  | .decode (.lin (some a) n) => ¬ Admissible a n
  | .scan (.lin (some a) n) true => ¬ Admissible a n
  | _ => False

/-- No check of the command fails, its regions are admissible, and its source and destination share a byte
(20_memory.md R61; log entry 8). -/
def copiesOntoItself (i : Instr) (s : State) : Prop :=
  match i with
  | .cbAppend (some a) n =>
    s.cb.valid = true ∧ n.toNat ≤ s.cb.free.toNat ∧ Admissible a n ∧
      Overlap a.toNat n.toNat s.cb.base.toNat s.cb.cap.toNat
  | .cbConsume (some a) n =>
    s.cb.valid = true ∧ n.toNat ≤ s.occupied ∧ Admissible a n ∧
      Overlap a.toNat n.toNat s.cb.base.toNat s.cb.cap.toNat
  | .encBuild (some a) n =>
    s.enc.valid = true ∧ n.toNat ≤ s.cfg.maxPayload.toNat ∧ n.toNat + 10 ≤ s.enc.cap.toNat ∧
      Admissible a n ∧ Admissible s.enc.base s.enc.cap ∧
      Overlap a.toNat n.toNat s.enc.base.toNat (n.toNat + 10)
  | _ => False

/-- The descriptor is illegal, in the words of 30_encoding.md R99: an `OPCODE` other than the eleven, a bit of
`W0[31:11]` set, a flag set that the command does not use (R96), or RD_REG of a number that is no register's. -/
abbrev illegalDescriptor (d : Descriptor) : Prop :=
  (d.w0.toNat % 256 ∉ [0x01, 0x10, 0x11, 0x12, 0x20, 0x21, 0x22, 0x23, 0x30, 0x40, 0x50]) ∨
  2048 ≤ d.w0.toNat ∨
  (d.w0.getLsbD 8 = true ∧ d.w0.toNat % 256 ∈ [0x22, 0x23, 0x50]) ∨
  (d.w0.getLsbD 9 = true ∧ d.w0.toNat % 256 ∉ [0x30, 0x40]) ∨
  (d.w0.getLsbD 10 = true ∧ d.w0.toNat % 256 ≠ 0x40) ∨
  (d.w0.toNat % 256 = 0x50 ∧ d.w2.toNat ∉
    [0x00, 0x01, 0x02, 0x03, 0x04, 0x05, 0x08, 0x09, 0x0A, 0x0B, 0x10, 0x11, 0x12, 0x18, 0x19, 0x1A])

/-! ## Which bytes a command may write and read (20_memory.md R60) -/

/-- The address `x` is in the write column of R60's table. -/
def writesByte (i : Instr) (s : State) (x : Nat) : Prop :=
  match i with
  | .cbInit (some a) n => a.toNat ≤ x ∧ x < a.toNat + n.toNat
  | .cbAppend (some _) n => ∃ j < n.toNat, x = s.tailSlot j
  | .cbConsume (some a) n => a.toNat ≤ x ∧ x < a.toNat + n.toNat
  | .encBuild (some _) n => s.enc.base.toNat ≤ x ∧ x < s.enc.base.toNat + n.toNat + 10
  | _ => False

/-- The address `x` is in the read column of R60's table (for DECODE and SCAN: in the window). -/
def readsByte (i : Instr) (s : State) (x : Nat) : Prop :=
  match i with
  | .crc16 (some a) n => a.toNat ≤ x ∧ x < a.toNat + n.toNat
  | .cbAppend (some a) n => a.toNat ≤ x ∧ x < a.toNat + n.toNat
  | .cbConsume (some _) n => ∃ j < n.toNat, x = s.headSlot j
  | .encBuild (some a) n => a.toNat ≤ x ∧ x < a.toNat + n.toNat
  | .decode (.lin (some a) n) => a.toNat ≤ x ∧ x < a.toNat + n.toNat
  | .scan (.lin (some a) n) _ => a.toNat ≤ x ∧ x < a.toNat + n.toNat
  | .decode .cb => ∃ j < s.occupied, x = s.headSlot j
  | .scan .cb _ => ∃ j < s.occupied, x = s.headSlot j
  | _ => False

/-! ## Runs of commands (10_state.md R28: "a finite list of commands the host issues in order") -/

/-- The command succeeded: it was answered `STATUS = 0`. -/
def State.succeeded (s : State) : Bool := match s.response with
  | some r => r.status == 0
  | none => false

/-- The bytes taken by the successful CB_APPENDs and delivered by the successful CB_CONSUMEs of a run, oldest first,
and the state it ends in (41_cbuf.md R146). `none` when a command is refused, is a CB_INIT, or is an ENC_BUILD whose
frame would lie over the storage ("provided nothing else writes the storage region"). -/
def fifoTrace : List Instr → State → Option (List Byte × List Byte × State)
  | [], s => some ([], [], s)
  | i :: is, s =>
    match exec i s with
    | .next t =>
      match i with
      | .cbInit _ _ => none
      | .cbAppend (some a) n =>
        (fifoTrace is t).map fun r =>
          (if t.succeeded then s.mem.readAt (span a.toNat) n.toNat ++ r.1 else r.1, r.2.1, r.2.2)
      | .cbConsume (some a) n =>
        (fifoTrace is t).map fun r =>
          (r.1, if t.succeeded then t.mem.readAt (span a.toNat) n.toNat ++ r.2.1 else r.2.1, r.2.2)
      | .encBuild _ n =>
        if Overlap s.enc.base.toNat (n.toNat + 10) s.cb.base.toNat s.cb.cap.toNat then none else fifoTrace is t
      | _ => fifoTrace is t
    | .fault _ => none
    | .refused _ => none

/-- The `frame_counter` fields of the frames the successful ENC_BUILDs of a run wrote, in order, and the state it ends
in (42_encoder.md R175). `none` when a command is refused or is an ENC_INIT or ENC_SET_COUNTER. -/
def counterTrace : List Instr → State → Option (List Half × State)
  | [], s => some ([], s)
  | i :: is, s =>
    match exec i s with
    | .next t =>
      match i with
      | .encInit _ _ => none
      | .encSetCounter _ => none
      | .encBuild _ _ =>
        (counterTrace is t).map fun r =>
          (if t.succeeded then rd16le (t.mem.readAt (span t.enc.base.toNat) 4) 2 :: r.1 else r.1, r.2)
      | _ => counterTrace is t
    | .fault _ => none
    | .refused _ => none

/-! ## Streams (30_encoding.md R88) -/

/-- Frames laid end to end, one for each counter and payload. -/
def cleanStream (c : Config) (fs : List (Half × List Byte)) : List Byte := fs.flatMap fun f => frameBytes c f.1 f.2

/-- What a scan finds in a clean stream that starts at offset `p`: one hit for each frame, at its own offset. -/
def cleanHits (c : Config) : Nat → List (Half × List Byte) → List (Nat × Frame)
  | _, [] => []
  | p, f :: fs =>
    (p, { counter := f.1, size := BitVec.ofNat 16 f.2.length,
          hcrc := crc16 c (header6 c f.1 (BitVec.ofNat 16 f.2.length)), pcrc := crc16 c f.2 })
      :: cleanHits c (p + f.2.length + 10) fs

/-- Every offset of a scan's findings, moved by `k`. -/
def shiftHits (k : Nat) (hs : List (Nat × Frame)) : List (Nat × Frame) := hs.map fun h => (h.1 + k, h.2)

/-- The bits of a byte sequence, most significant bit of each byte first (40_crc.md R123). -/
def bitsOf (s : List Byte) : List Bool := s.flatMap fun b => (List.range 8).map fun j => b.getMsbD j

end Sys2Proof.Machine
end

