-- ==== Sys2Proof/Certificates/Slice0/Obligations.lean ====
section
/-! DEFINITION. The statements for the provers. Each docstring names the rule or section of spec/ it rests on. -/

open Sys2Proof Sys2Proof.Machine

/-! ## Descriptors -/

/-- 30_encoding.md sections 3 and 4, 95_test_vectors.md: words written out from the field table. -/
def Obligations.WordsDecodeAsWritten : Prop :=
  decode ⟨0x00000101, 0x00005000, 0x00000005⟩ = .ok (.crc16 (some 0x5000) 5) ∧
  decode ⟨0x00000110, 0x00001000, 0x00000008⟩ = .ok (.cbInit (some 0x1000) 8) ∧
  decode ⟨0x00000011, 0x00000000, 0x00000000⟩ = .ok (.cbAppend none 0) ∧
  decode ⟨0x00000121, 0x00005000, 0x0000FFF6⟩ = .ok (.encBuild (some 0x5000) 65526) ∧
  decode ⟨0x00000230, 0x00000000, 0x00000000⟩ = .ok (.decode .cb) ∧
  decode ⟨0x00000540, 0x00002000, 0x00000015⟩ = .ok (.scan (.lin (some 0x2000) 21) true) ∧
  decode ⟨0x00000050, 0x00000000, 0x0000000B⟩ = .ok (.rdReg 0x0B) ∧
  decode ⟨0x00000122, 0x00000000, 0x00000005⟩ = .error .unusedFlagSet ∧
  decode ⟨0x00000801, 0x00005000, 0x00000005⟩ = .error .reservedBitSet ∧
  decode ⟨0x00000050, 0x00000000, 0x0000001B⟩ = .error .noSuchRegister

/-- 30_encoding.md section 4: "the rows are disjoint". -/
def Obligations.OpcodeRowsAreDisjoint : Prop :=
  ∀ r₁ ∈ opRows, ∀ r₂ ∈ opRows, ∀ w0 : Word, r₁.matches w0 = true → r₂.matches w0 = true → r₁ = r₂

/-- 30_encoding.md sections 3, 4 and 7: decode and encode agree on every well-formed command, every operand at every
value the encoding admits. -/
def Obligations.DecodeOfEncode : Prop :=
  ∀ i : Instr, i.wf = true → decode (encode i) = .ok i

/-- 30_encoding.md section 3: what decodes is well formed, and decoding drops only the fields R96 says the command
ignores: with `SRC = 0` nothing of `W0` and `W2`, and `W1` only when `AP = 0`; with `SRC = 1` `AP`, `A` and `N`. The one
field this keeps although a command ignores it is `W2` where `N[31:16]` of ENC_SET_COUNTER is ignored. -/
def Obligations.DecodingDropsOnlyIgnoredFields : Prop :=
  ∀ (d : Descriptor) (i : Instr), decode d = .ok i →
    i.wf = true ∧
    (d.src = false → (encode i).w0 = d.w0 ∧ (encode i).w2 = d.w2 ∧ (d.ap = true → (encode i).w1 = d.w1)) ∧
    (d.src = true → (encode i).w0 = d.w0 &&& 0xFFFFFEFF)

/-- R99, R291: an illegal command changes no state and no memory, delivers nothing, and returns `STATUS = 0xFF`; every
other descriptor is one of the eleven commands and is executed. -/
def Obligations.IllegalDescriptorsAnswerFF : Prop :=
  ∀ (s : State) (d : Descriptor),
    (illegalDescriptor d → runCommand d s = .next (s.setResponse ⟨0xFF, 0, 0, 0, 0⟩)) ∧
    (¬ illegalDescriptor d → ∃ i, decode d = .ok i ∧ runCommand d s = exec i s)

/-! ## The step -/

/-- 00_scope.md section 5 (R17), 10_state.md section 5 (R28): a presented command is run on the state with that input
taken, and one that decodes is executed. That inputs are a list in State is the model's choice (log entries 1, 10). -/
def Obligations.StepRunsTheDecodedCommand : Prop :=
  (∀ (s : State) (d : Descriptor) (rest : List Input), s.inputs = .command d :: rest →
    step s = runCommand d (s.setInputs rest) ∧
    ∀ i : Instr, decode d = .ok i → step s = exec i (s.setInputs rest)) ∧
  (∀ (s : State) (nbits w : Nat) (i : Instr),
    decodeTableWord nbits w = some i → step (s.withFetchWord nbits w) = exec i s)

/-- Model's choice (log entries 1, 2, 9, 21), on 60_exceptions.md section 8 (R299), 70_reset_and_hazards.md section 1
(R320) and 20_memory.md section 1 (R50): with nothing presented the block idles and keeps all its state; the reset input
resets; a host store changes one byte of `MEM` and nothing else. -/
def Obligations.IdleResetAndHostStore : Prop :=
  (∀ s : State, s.inputs = [] → step s = .next s) ∧
  (∀ (s : State) (rest : List Input), s.inputs = .reset :: rest →
    step s = .next (applyReset (s.setInputs rest)) ∧ (applyReset (s.setInputs rest)).inputs = rest) ∧
  (∀ (s : State) (a : Word) (b : Byte) (rest : List Input), s.inputs = .store a b :: rest →
    ∃ t, step s = .next t ∧ t.mem.read a.toNat = b ∧ (∀ x, x ≠ a.toNat → t.mem.read x = s.mem.read x) ∧
      t.cb = s.cb ∧ t.enc = s.enc ∧ t.sc = s.sc ∧ t.cfg = s.cfg ∧ t.inputs = rest ∧
      t.response = s.response ∧ t.sink = s.sink)

/-- R321: reset puts every register at its reset value, leaves the constants as they are, does not touch `MEM`, and
establishes the invariants of R23 and R25. -/
def Obligations.ResetSetsEveryRegister : Prop :=
  ∀ s : State,
    (applyReset s).cb = { valid := false, base := 0, cap := 0, app := 0, con := 0, free := 0 } ∧
    (applyReset s).enc = { valid := false, base := 0, cap := 0, counter := 0 } ∧
    (applyReset s).sc = { cursor := 0, count := 0, stop := .none } ∧
    (applyReset s).cfg = s.cfg ∧ (applyReset s).mem = s.mem ∧ (applyReset s).cb.inv ∧ (applyReset s).enc.inv

/-- 10_state.md section 9: the registers of the reset state are 0, nothing of `MEM` is known, no record is pending. The
parameters stand at the defaults of 00_scope.md section 4 (log entry 6). -/
def Obligations.ResetStateValues : Prop :=
  (∀ r : Reg, r ≠ .cfgMaxPayload → r ≠ .cfgPreamble → r ≠ .cfgCrc → regValue r State.reset = 0) ∧
  regValue .cfgMaxPayload State.reset = 0x0000FFF5 ∧ regValue .cfgPreamble State.reset = 0x0000CEFA ∧
  regValue .cfgCrc State.reset = 0xFFFF1021 ∧
  (∀ x, State.reset.mem.read x = Config.unwrittenByte x) ∧ State.reset.sink = []

/-- The invariant holds at reset (10_state.md R23, R25; 70_reset_and_hazards.md R321). -/
def Obligations.ResetMeetsTheInvariant : Prop := State.reset.Inv

/-- 41_cbuf.md section 5 and 10_state.md sections 2, 3, 4: every step, whatever it does, keeps the buffer invariants (a)
to (d), the encoder invariant, what the scanner registers say of a finished scan, the form of the response and of the
delivered records, the constraint on the parameters, and the canonical form of memory. -/
def Obligations.StepKeepsTheInvariant : Prop :=
  ∀ s t : State, s.Inv → step s = .next t → t.Inv

/-- 10_state.md section 6: the configuration registers are "hardwired, never written, the same before and after
reset". -/
def Obligations.StepNeverChangesTheParameters : Prop :=
  ∀ s t : State, step s = .next t → t.cfg = s.cfg

/-! ## Errors -/

/-- R282, R283, R284, R285: the exact conditions of the four error kinds outside the decoder, with the order in which
they are checked; SCAN never reports one. -/
def Obligations.ErrorsAtTheirExactConditions : Prop :=
  ∀ (i : Instr) (s : State),
    (Fails i s .nullPointer ↔
      match i with
      | .crc16 ref _ => ref = none
      | .cbInit ref _ => ref = none
      | .cbAppend ref _ => ref = none ∨ s.cb.valid = false
      | .cbConsume ref _ => ref = none ∨ s.cb.valid = false
      | .encInit ref _ => ref = none
      | .encBuild ref _ => s.enc.valid = false ∨ ref = none
      | .decode (.lin ref _) => ref = none
      | .decode .cb => s.cb.valid = false
      | _ => False) ∧
    (Fails i s .bufferTooSmall ↔
      match i with
      | .cbInit ref n => ref.isSome ∧ n = 0
      | .encInit ref n => ref.isSome ∧ n.toNat < 10
      | .encBuild ref n =>
        ref.isSome ∧ s.enc.valid = true ∧ n.toNat ≤ s.cfg.maxPayload.toNat ∧ s.enc.cap.toNat < n.toNat + 10
      | _ => False) ∧
    (Fails i s .insufficientSpace ↔
      match i with
      | .cbAppend ref n => ref.isSome ∧ s.cb.valid = true ∧ s.cb.free.toNat < n.toNat
      | .cbConsume ref n => ref.isSome ∧ s.cb.valid = true ∧ s.cb.cap.toNat - s.cb.free.toNat < n.toNat
      | _ => False) ∧
    (Fails i s .payloadTooLarge ↔
      match i with
      | .encBuild ref n => ref.isSome ∧ s.enc.valid = true ∧ s.cfg.maxPayload.toNat < n.toNat
      | _ => False)

/-- R290: a command that returns `STATUS != 0` has changed no register and no byte and delivered nothing; `R0..R3` are
zero. Every command that ends returns a response. -/
def Obligations.ErrorLeavesNoTrace : Prop :=
  ∀ (i : Instr) (s t : State), exec i s = .next t →
    ∃ r, t.response = some r ∧
      (r.status ≠ 0 → r.r0 = 0 ∧ r.r1 = 0 ∧ r.r2 = 0 ∧ r.r3 = 0 ∧
        t.cb = s.cb ∧ t.enc = s.enc ∧ t.sc = s.sc ∧ t.cfg = s.cfg ∧ t.mem = s.mem ∧ t.inputs = s.inputs ∧
        t.sink = s.sink)

/-- 20_memory.md sections 1 and 6: a command stops exactly when a region it needs runs past 2^32 or its source and
destination share a byte, and no check of it fails first (the order is the model's reading, log entries 7 and 8). -/
def Obligations.StopsExactlyOutsideTheSpec : Prop :=
  ∀ (i : Instr) (s : State) (q : Refusal),
    exec i s = .refused q ↔
      (q = .inadmissibleRegion ∧ leavesMemory i s) ∨ (q = .overlappingRegions ∧ copiesOntoItself i s)

/-! ## Checksum engine -/

/-- R127: CRC16 answers the checksum of the region, `CRC_INIT` for none, and `NullPointer` when the reference is absent,
whatever `N` is; it writes no state and no memory. -/
def Obligations.Crc16Answers : Prop :=
  ∀ (s : State) (n : Word),
    Fails (.crc16 none n) s .nullPointer ∧
    ∀ a : Word,
      (Admissible a n → exec (.crc16 (some a) n) s = .next (s.setResponse
        ⟨0, (crc16 s.cfg (s.mem.readAt (span a.toNat) n.toNat)).setWidth 32, 0, 0, 0⟩)) ∧
      exec (.crc16 (some a) 0) s = .next (s.setResponse ⟨0, s.cfg.crcInit.setWidth 32, 0, 0, 0⟩)

/-- R124: over an empty input the result is the initial register value, whatever the parameters. -/
def Obligations.CrcOfNothingIsInit : Prop := ∀ c : Config, crc16 c [] = c.crcInit

/-- R125: the known vector, with every value the register passes through. -/
def Obligations.CrcKnownVector : Prop :=
  (List.range 10).map (fun k => (crc16 Config.defaults
      (([0x31, 0x32, 0x33, 0x34, 0x35, 0x36, 0x37, 0x38, 0x39] : List Byte).take k)).toNat) =
    [0xFFFF, 0xC782, 0x3DBA, 0x5BCE, 0x5349, 0x4560, 0x2EF4, 0x7718, 0xA12B, 0x29B1]

/-- 40_crc.md section 3: the bit-serial form equals the table form, for every polynomial and initial value. -/
def Obligations.CrcSerialEqualsTable : Prop :=
  ∀ (c : Config) (s : List Byte), crc16Serial c s = crc16 c s

/-- 40_crc.md section 3, property (c): the register after `s ++ t`. -/
def Obligations.CrcContinues : Prop :=
  ∀ (c : Config) (s t : List Byte), crc16 c (s ++ t) = crcFrom c.crcPoly (crc16 c s) t

/-- 40_crc.md section 3, property (d): with a generator that has a non-zero constant term, a change confined to 16 or
fewer consecutive bits of the input, the length unchanged, always changes the checksum. -/
def Obligations.CrcDetectsEveryShortBurst : Prop :=
  ∀ (c : Config) (x y : List Byte) (p u v q : List Bool),
    c.crcPoly.getLsbD 0 = true → bitsOf x = p ++ u ++ q → bitsOf y = p ++ v ++ q →
    u.length = v.length → u.length ≤ 16 → u ≠ v → crc16 c x ≠ crc16 c y

/-! ## Circular byte buffer -/

/-- R142: CB_INIT zero-fills the storage, attaches it and empties the buffer; its two errors in order, changing nothing.
Only the storage is written. -/
def Obligations.CbInitAttachesZeroedStorage : Prop :=
  ∀ (s : State) (n : Word),
    Fails (.cbInit none n) s .nullPointer ∧
    ∀ a : Word,
      Fails (.cbInit (some a) 0) s .bufferTooSmall ∧
      (n ≠ 0 → Admissible a n →
        ∃ t, exec (.cbInit (some a) n) s = .next t ∧
          t.response = some ⟨0, 0, 0, 0, 0⟩ ∧
          t.cb = { valid := true, base := a, cap := n, app := 0, con := 0, free := n } ∧
          (∀ x, a.toNat ≤ x → x < a.toNat + n.toNat → t.mem.read x = 0) ∧
          (∀ x, x < a.toNat ∨ a.toNat + n.toNat ≤ x → t.mem.read x = s.mem.read x) ∧
          t.content = [] ∧
          t.enc = s.enc ∧ t.sc = s.sc ∧ t.cfg = s.cfg ∧ t.inputs = s.inputs ∧ t.sink = s.sink)

/-- R143: CB_APPEND copies the bytes in at the tail, through the wrap, and appends them to the content; its two errors in
order, changing nothing; a count of 0 changes nothing. Only the storage bytes at the tail slots are written. -/
def Obligations.CbAppendPutsBytesAtTheTail : Prop :=
  ∀ (s : State) (n : Word), s.cb.inv →
    Fails (.cbAppend none n) s .nullPointer ∧
    ∀ a : Word,
      (s.cb.valid = false → Fails (.cbAppend (some a) n) s .nullPointer) ∧
      (s.cb.valid = true → s.cb.free.toNat < n.toNat → Fails (.cbAppend (some a) n) s .insufficientSpace) ∧
      (s.cb.valid = true → exec (.cbAppend (some a) 0) s = .next (s.setResponse ⟨0, 0, 0, 0, 0⟩)) ∧
      (s.cb.valid = true → n.toNat ≤ s.cb.free.toNat → Admissible a n →
        ¬ Overlap a.toNat n.toNat s.cb.base.toNat s.cb.cap.toNat →
        ∃ t, exec (.cbAppend (some a) n) s = .next t ∧
          t.response = some ⟨0, 0, 0, 0, 0⟩ ∧
          t.cb.app.toNat = (s.cb.app.toNat + n.toNat) % s.cb.cap.toNat ∧
          t.cb.free.toNat = s.cb.free.toNat - n.toNat ∧
          t.cb.valid = s.cb.valid ∧ t.cb.base = s.cb.base ∧ t.cb.cap = s.cb.cap ∧ t.cb.con = s.cb.con ∧
          (n.toNat = s.cb.free.toNat → t.cb.free = 0 ∧ t.cb.app = t.cb.con) ∧
          (∀ i < n.toNat, t.mem.read (s.cb.base.toNat + (s.cb.app.toNat + i) % s.cb.cap.toNat) =
            s.mem.read (a.toNat + i)) ∧
          (∀ x, (∀ i < n.toNat, x ≠ s.tailSlot i) → t.mem.read x = s.mem.read x) ∧
          t.content = s.content ++ s.mem.readAt (span a.toNat) n.toNat ∧
          t.enc = s.enc ∧ t.sc = s.sc ∧ t.cfg = s.cfg ∧ t.inputs = s.inputs ∧ t.sink = s.sink)

/-- R144: CB_CONSUME copies the oldest bytes out and drops them from the content; its two errors in order, changing
nothing; a count of 0 changes nothing. Only the destination is written: the storage bytes are not changed. -/
def Obligations.CbConsumeTakesBytesFromTheHead : Prop :=
  ∀ (s : State) (n : Word), s.cb.inv →
    Fails (.cbConsume none n) s .nullPointer ∧
    ∀ a : Word,
      (s.cb.valid = false → Fails (.cbConsume (some a) n) s .nullPointer) ∧
      (s.cb.valid = true → s.cb.cap.toNat - s.cb.free.toNat < n.toNat →
        Fails (.cbConsume (some a) n) s .insufficientSpace) ∧
      (s.cb.valid = true → exec (.cbConsume (some a) 0) s = .next (s.setResponse ⟨0, 0, 0, 0, 0⟩)) ∧
      (s.cb.valid = true → n.toNat ≤ s.cb.cap.toNat - s.cb.free.toNat → Admissible a n →
        ¬ Overlap a.toNat n.toNat s.cb.base.toNat s.cb.cap.toNat →
        ∃ t, exec (.cbConsume (some a) n) s = .next t ∧
          t.response = some ⟨0, 0, 0, 0, 0⟩ ∧
          t.cb.con.toNat = (s.cb.con.toNat + n.toNat) % s.cb.cap.toNat ∧
          t.cb.free.toNat = s.cb.free.toNat + n.toNat ∧
          t.cb.valid = s.cb.valid ∧ t.cb.base = s.cb.base ∧ t.cb.cap = s.cb.cap ∧ t.cb.app = s.cb.app ∧
          (n.toNat = s.cb.cap.toNat - s.cb.free.toNat → t.cb.free = t.cb.cap ∧ t.cb.con = t.cb.app) ∧
          (∀ i < n.toNat, t.mem.read (a.toNat + i) =
            s.mem.read (s.cb.base.toNat + (s.cb.con.toNat + i) % s.cb.cap.toNat)) ∧
          (∀ x, x < a.toNat ∨ a.toNat + n.toNat ≤ x → t.mem.read x = s.mem.read x) ∧
          t.mem.readAt (span a.toNat) n.toNat = s.content.take n.toNat ∧
          t.content = s.content.drop n.toNat ∧
          t.enc = s.enc ∧ t.sc = s.sc ∧ t.cfg = s.cfg ∧ t.inputs = s.inputs ∧ t.sink = s.sink)

/-- 41_cbuf.md sections 3 and 4: the model's one indexed copy is the rule's two contiguous moves, the first up to the end
of storage: the same memory, as data, after CB_APPEND, and the same bytes read by CB_CONSUME (log entry 15). -/
def Obligations.WrappedCopyIsTwoMoves : Prop :=
  ∀ (s : State) (a n : Word), s.cb.inv → s.cb.valid = true →
    (n.toNat ≤ s.cb.free.toNat →
      (cbAppendEffect a n s).mem =
        (s.mem.writeAt (span (s.cb.base.toNat + s.cb.app.toNat))
            ((s.mem.readAt (span a.toNat) n.toNat).take (min n.toNat (s.cb.cap.toNat - s.cb.app.toNat)))).writeAt
          (span s.cb.base.toNat)
            ((s.mem.readAt (span a.toNat) n.toNat).drop (min n.toNat (s.cb.cap.toNat - s.cb.app.toNat)))) ∧
    (n.toNat ≤ s.occupied →
      s.mem.readAt s.headSlot n.toNat =
        s.mem.readAt (span (s.cb.base.toNat + s.cb.con.toNat)) (min n.toNat (s.cb.cap.toNat - s.cb.con.toNat)) ++
        s.mem.readAt (span s.cb.base.toNat) (n.toNat - min n.toNat (s.cb.cap.toNat - s.cb.con.toNat)))

/-- R147: the free-space counter tells full from empty when the cursors are equal, and no slot is sacrificed. -/
def Obligations.FullAndEmptyAreToldApart : Prop :=
  ∀ s : State, s.cb.inv → s.cb.valid = true →
    (s.cb.app = s.cb.con ↔ s.cb.free = 0 ∨ s.cb.free = s.cb.cap) ∧
    (s.content = [] ↔ s.cb.free = s.cb.cap) ∧
    (s.content.length = s.cb.cap.toNat ↔ s.cb.free = 0) ∧
    s.cb.free.toNat + s.content.length = s.cb.cap.toNat

/-- R146: first in, first out. Over any run of commands with nothing else writing the storage, the bytes delivered,
followed by what the buffer holds, are what it held, followed by the bytes taken; since a CB_INIT, the bytes taken. -/
def Obligations.BufferIsFirstInFirstOut : Prop :=
  (∀ (is : List Instr) (s t : State) (taken delivered : List Byte), s.cb.inv →
    fifoTrace is s = some (taken, delivered, t) → s.content ++ taken = delivered ++ t.content) ∧
  (∀ (is : List Instr) (s₀ s t : State) (a n : Word) (taken delivered : List Byte), n ≠ 0 →
    exec (.cbInit (some a) n) s₀ = .next s → fifoTrace is s = some (taken, delivered, t) →
    delivered ++ t.content = taken)

/-! ## Frame encoder -/

/-- R171: ENC_INIT attaches the destination buffer and zeroes the counter, writing no byte; its two errors in order,
changing nothing. -/
def Obligations.EncInitAttachesTheDestination : Prop :=
  ∀ (s : State) (n : Word),
    Fails (.encInit none n) s .nullPointer ∧
    ∀ a : Word,
      (n.toNat < 10 → Fails (.encInit (some a) n) s .bufferTooSmall) ∧
      (10 ≤ n.toNat → Admissible a n →
        exec (.encInit (some a) n) s = .next
          ((s.setEnc { valid := true, base := a, cap := n, counter := 0 }).setResponse ⟨0, 0, 0, 0, 0⟩))

/-- R172: ENC_BUILD writes one frame at `ENC_BASE`, byte for byte as laid out, increments the counter modulo 65536 and
answers the number of bytes written; its three errors in order, changing nothing. Only the frame is written. -/
def Obligations.EncBuildWritesOneFrame : Prop :=
  ∀ (s : State) (n : Word),
    Fails (.encBuild none n) s .nullPointer ∧
    ∀ a : Word,
      (s.enc.valid = false → Fails (.encBuild (some a) n) s .nullPointer) ∧
      (s.enc.valid = true → s.cfg.maxPayload.toNat < n.toNat → Fails (.encBuild (some a) n) s .payloadTooLarge) ∧
      (s.enc.valid = true → n.toNat ≤ s.cfg.maxPayload.toNat → s.enc.cap.toNat < n.toNat + 10 →
        Fails (.encBuild (some a) n) s .bufferTooSmall) ∧
      (s.enc.valid = true → n.toNat ≤ s.cfg.maxPayload.toNat → n.toNat + 10 ≤ s.enc.cap.toNat →
        Admissible a n → Admissible s.enc.base s.enc.cap →
        ¬ Overlap a.toNat n.toNat s.enc.base.toNat (n.toNat + 10) →
        ∃ t h6 p, exec (.encBuild (some a) n) s = .next t ∧
          p = s.mem.readAt (span a.toNat) n.toNat ∧
          h6 = [s.cfg.preamble0, s.cfg.preamble1] ++ le16 s.enc.counter ++ le16 (BitVec.ofNat 16 n.toNat) ∧
          t.mem.readAt (span s.enc.base.toNat) (n.toNat + 10) =
            h6 ++ le16 (crc16 s.cfg h6) ++ p ++ le16 (crc16 s.cfg p) ∧
          (∀ x, x < s.enc.base.toNat ∨ s.enc.base.toNat + n.toNat + 10 ≤ x → t.mem.read x = s.mem.read x) ∧
          t.response = some ⟨0, BitVec.ofNat 32 (n.toNat + 10), 0, 0, 0⟩ ∧
          t.enc.counter.toNat = (s.enc.counter.toNat + 1) % 65536 ∧
          t.enc.valid = s.enc.valid ∧ t.enc.base = s.enc.base ∧ t.enc.cap = s.enc.cap ∧
          t.cb = s.cb ∧ t.sc = s.sc ∧ t.cfg = s.cfg ∧ t.inputs = s.inputs ∧ t.sink = s.sink)

/-- R173: FRAME_SIZE answers `(N + 10) mod 2^32`, exact for every value a size field can hold; it reads and writes
nothing. -/
def Obligations.FrameSizeAddsTen : Prop :=
  ∀ (s : State) (n : Word),
    exec (.frameSize n) s = .next (s.setResponse ⟨0, BitVec.ofNat 32 (n.toNat + 10), 0, 0, 0⟩) ∧
    (n.toNat ≤ 65535 → (BitVec.ofNat 32 (n.toNat + 10)).toNat = n.toNat + 10)

/-- R174: ENC_SET_COUNTER sets the counter to `N[15:0]`, with or without a buffer, and nothing else; a later successful
ENC_INIT sets it back to 0. -/
def Obligations.EncSetCounterPresetsTheCounter : Prop :=
  (∀ (s : State) (n : Word), exec (.encSetCounter n) s = .next
    ((s.setEnc { s.enc with counter := BitVec.ofNat 16 n.toNat }).setResponse ⟨0, 0, 0, 0, 0⟩)) ∧
  (∀ (s t : State) (ref : Ref) (n : Word), exec (.encInit ref n) s = .next t → t.succeeded = true → t.enc.counter = 0)

/-- R175: the frames of the successful ENC_BUILDs of a run carry consecutive counters modulo 65536, whatever is
interleaved, and the counter ends after the last; from 65534, three frames carry 65534, 65535, 0. -/
def Obligations.CountersAreConsecutive : Prop :=
  ∀ (is : List Instr) (s t : State) (cs : List Half), counterTrace is s = some (cs, t) →
    cs = (List.range cs.length).map (fun j => s.enc.counter + BitVec.ofNat 16 j) ∧
    t.enc.counter = s.enc.counter + BitVec.ofNat 16 cs.length ∧
    (s.enc.counter = 65534 → cs.length = 3 → cs = [65534, 65535, 0])

/-- R81: the layout of a frame by byte offset. -/
def Obligations.FrameLayoutByOffset : Prop :=
  ∀ (c : Config) (k : Half) (p : List Byte), p.length ≤ 65535 →
    (frameBytes c k p).length = 8 + p.length + 2 ∧
    byteAt (frameBytes c k p) 0 = c.preamble0 ∧ byteAt (frameBytes c k p) 1 = c.preamble1 ∧
    (byteAt (frameBytes c k p) 2).toNat = k.toNat % 256 ∧ (byteAt (frameBytes c k p) 3).toNat = k.toNat / 256 ∧
    (byteAt (frameBytes c k p) 4).toNat = p.length % 256 ∧ (byteAt (frameBytes c k p) 5).toNat = p.length / 256 ∧
    (byteAt (frameBytes c k p) 6).toNat = (crc16 c ((frameBytes c k p).take 6)).toNat % 256 ∧
    (byteAt (frameBytes c k p) 7).toNat = (crc16 c ((frameBytes c k p).take 6)).toNat / 256 ∧
    ((frameBytes c k p).drop 8).take p.length = p ∧
    (byteAt (frameBytes c k p) (8 + p.length)).toNat = (crc16 c p).toNat % 256 ∧
    (byteAt (frameBytes c k p) (8 + p.length + 1)).toNat = (crc16 c p).toNat / 256

/-- 42_encoder.md section 6, 30_encoding.md section 1: every frame the encoder writes is well-formed and valid. -/
def Obligations.EncodedFramesAreWellFormedAndValid : Prop :=
  ∀ (c : Config) (k : Half) (p : List Byte), p.length ≤ c.maxPayload.toNat →
    wellFormedFrame c (frameBytes c k p) ∧ validFrame c (frameBytes c k p)

/-! ## Frame decoder -/

/-- R286, R287, R288, R289: the exact condition of each decoder error. -/
def Obligations.DecoderErrorsAtTheirExactConditions : Prop :=
  ∀ (c : Config) (w : List Byte),
    (decodeFrame c w = .error .incompleteFrame ↔
      w.length < 10 ∨ (byteAt w 0 = c.preamble0 ∧ byteAt w 1 = c.preamble1 ∧ crc16 c (w.take 6) = rd16le w 6 ∧
        w.length < (rd16le w 4).toNat + 10)) ∧
    (decodeFrame c w = .error .invalidPreamble ↔
      10 ≤ w.length ∧ (byteAt w 0 ≠ c.preamble0 ∨ byteAt w 1 ≠ c.preamble1)) ∧
    (decodeFrame c w = .error .invalidHeaderCrc ↔
      10 ≤ w.length ∧ byteAt w 0 = c.preamble0 ∧ byteAt w 1 = c.preamble1 ∧ crc16 c (w.take 6) ≠ rd16le w 6) ∧
    (decodeFrame c w = .error .invalidPayloadCrc ↔
      10 ≤ w.length ∧ byteAt w 0 = c.preamble0 ∧ byteAt w 1 = c.preamble1 ∧ crc16 c (w.take 6) = rd16le w 6 ∧
        (rd16le w 4).toNat + 10 ≤ w.length ∧
        crc16 c ((w.drop 8).take (rd16le w 4).toNat) ≠ rd16le w (8 + (rd16le w 4).toNat))

/-- 43_decoder.md section 2, 30_encoding.md section 1: the decoder accepts exactly the sequences that begin with the preamble and are
valid, and yields their fields; it does not test the size against `MAX_PAYLOAD`. -/
def Obligations.DecoderAcceptsExactlyValidFrames : Prop :=
  ∀ (c : Config) (w : List Byte) (f : Frame), decodeFrame c w = .ok f ↔
    (byteAt w 0 = c.preamble0 ∧ byteAt w 1 = c.preamble1 ∧ validFrame c w ∧
      f = ⟨rd16le w 2, rd16le w 4, rd16le w 6, rd16le w (8 + (rd16le w 4).toNat)⟩)

/-- R202: a zero-length payload is legal; its checksum field must be the initial value of the checksum engine. -/
def Obligations.EmptyPayloadIsChecked : Prop :=
  ∀ (c : Config) (w : List Byte), 10 ≤ w.length → byteAt w 0 = c.preamble0 → byteAt w 1 = c.preamble1 →
    crc16 c (w.take 6) = rd16le w 6 → rd16le w 4 = 0 →
    (rd16le w 8 = c.crcInit → decodeFrame c w = .ok ⟨rd16le w 2, 0, rd16le w 6, c.crcInit⟩) ∧
    (rd16le w 8 ≠ c.crcInit → decodeFrame c w = .error .invalidPayloadCrc)

/-- R206: decoding what the encoder writes, whatever follows it, yields the counter, the size, both checksums, the
payload byte for byte, and the frame's size as consumed bytes. -/
def Obligations.DecodeOfFrameBytes : Prop :=
  ∀ (c : Config) (k : Half) (p t : List Byte), p.length ≤ 65535 →
    ∃ f, decodeFrame c (frameBytes c k p ++ t) = .ok f ∧
      f.counter = k ∧ f.size.toNat = p.length ∧
      f.hcrc = crc16 c (header6 c k (BitVec.ofNat 16 p.length)) ∧ f.pcrc = crc16 c p ∧
      f.total = p.length + 10 ∧ ((frameBytes c k p ++ t).drop 8).take f.size.toNat = p

/-- R207: the result depends on the number of available bytes and the candidate frame's bytes only; success is the same
on every window that agrees on the frame's bytes, and only `IncompleteFrame` can change when more bytes are supplied. -/
def Obligations.DecoderLooksAtOneFrameOnly : Prop :=
  ∀ (c : Config) (w w' t : List Byte),
    (w'.length = w.length → w'.take ((rd16le w 4).toNat + 10) = w.take ((rd16le w 4).toNat + 10) →
      decodeFrame c w' = decodeFrame c w) ∧
    (∀ f, decodeFrame c w = .ok f → f.total ≤ w'.length → w'.take f.total = w.take f.total →
      decodeFrame c w' = .ok f) ∧
    (∀ k, decodeFrame c w = .error k → k ≠ .incompleteFrame → decodeFrame c (w ++ t) = .error k)

/-- R204: DECODE answers the frame record of the candidate at the start of its window, or the decoder's error, or
`NullPointer` when the window is absent. It changes nothing but the response: the buffer is not consumed. -/
def Obligations.DecodeAnswersTheCandidate : Prop :=
  ∀ s : State,
    (∀ n, Fails (.decode (.lin none n)) s .nullPointer) ∧
    (s.cb.valid = false → Fails (.decode .cb) s .nullPointer) ∧
    (∀ a n, Admissible a n →
      (∀ k, decodeFrame s.cfg (s.mem.readAt (span a.toNat) n.toNat) = .error k →
        Fails (.decode (.lin (some a) n)) s k) ∧
      (∀ f, decodeFrame s.cfg (s.mem.readAt (span a.toNat) n.toNat) = .ok f →
        exec (.decode (.lin (some a) n)) s = .next (s.setResponse
          ⟨0, BitVec.ofNat 32 (f.size.toNat + 10), BitVec.ofNat 32 (a.toNat + 8), f.size ++ f.counter,
            f.pcrc ++ f.hcrc⟩))) ∧
    (s.cb.valid = true →
      (∀ k, decodeFrame s.cfg s.content = .error k → Fails (.decode .cb) s k) ∧
      (∀ f, decodeFrame s.cfg s.content = .ok f →
        exec (.decode .cb) s = .next (s.setResponse
          ⟨0, BitVec.ofNat 32 (f.size.toNat + 10), BitVec.ofNat 32 ((s.cb.con.toNat + 8) % s.cb.cap.toNat),
            f.size ++ f.counter, f.pcrc ++ f.hcrc⟩)))

/-- 43_decoder.md section 5 and 20_memory.md section 8: a frame ENC_BUILD has just written decodes, from the destination
buffer, to the same counter and size, and its payload bytes stand at the payload reference. -/
def Obligations.BuiltFrameDecodesFromMemory : Prop :=
  ∀ (s t : State) (a n : Word), exec (.encBuild (some a) n) s = .next t → t.succeeded = true →
    ∃ u r, exec (.decode (.lin (some s.enc.base) (n + 10))) t = .next u ∧ u.response = some r ∧
      r.status = 0 ∧ r.r0 = n + 10 ∧ r.r1 = s.enc.base + 8 ∧
      r.r2 = BitVec.ofNat 16 n.toNat ++ s.enc.counter ∧
      u.mem.readAt (span r.r1.toNat) n.toNat = s.mem.readAt (span a.toNat) n.toNat

/-! ## Stream scanner -/

/-- R235: with an absent stream or sink, SCAN answers 0, reads and delivers nothing, and marks the registers. -/
def Obligations.ScanOfNothingIsSilent : Prop :=
  ∀ (s : State) (w : WindowOp) (sink : Bool),
    ((∃ n, w = .lin none n) ∨ (w = .cb ∧ s.cb.valid = false) ∨ sink = false) →
    exec (.scan w sink) s = .next
      ((s.setSc { cursor := 0, count := 0, stop := .absent }).setResponse ⟨0, 0, 0, 0, 0⟩)

/-- 44_scanner.md sections 3 and 4: SCAN of a present window with a sink answers the number of frames found, leaves the
finished scan in the scanner registers, delivers one record per frame in stream order, and changes nothing else. -/
def Obligations.ScanDeliversWhatItFinds : Prop :=
  ∀ s : State,
    (∀ a n, Admissible a n →
      ∃ t r, exec (.scan (.lin (some a) n) true) s = .next t ∧
        r = scanStream s.cfg (s.mem.readAt (span a.toNat) n.toNat) ∧
        t.response = some ⟨0, t.sc.count, 0, 0, 0⟩ ∧
        t.sc.cursor.toNat = r.cursor ∧ t.sc.count.toNat = r.hits.length ∧ t.sc.stop = r.stop ∧
        t.sink = s.sink ++ r.hits.map (fun h =>
          { consumed := BitVec.ofNat 32 (h.2.size.toNat + 10), payloadRef := BitVec.ofNat 32 (a.toNat + (h.1 + 8)),
            counter := h.2.counter, payloadSize := h.2.size, headerCrc := h.2.hcrc, payloadCrc := h.2.pcrc,
            src := .lin }) ∧
        t.cb = s.cb ∧ t.enc = s.enc ∧ t.cfg = s.cfg ∧ t.mem = s.mem ∧ t.inputs = s.inputs) ∧
    (s.cb.valid = true →
      ∃ t r, exec (.scan .cb true) s = .next t ∧
        r = scanStream s.cfg s.content ∧
        t.response = some ⟨0, t.sc.count, 0, 0, 0⟩ ∧
        t.sc.cursor.toNat = r.cursor ∧ t.sc.count.toNat = r.hits.length ∧ t.sc.stop = r.stop ∧
        t.sink = s.sink ++ r.hits.map (fun h =>
          { consumed := BitVec.ofNat 32 (h.2.size.toNat + 10),
            payloadRef := BitVec.ofNat 32 ((s.cb.con.toNat + (h.1 + 8)) % s.cb.cap.toNat),
            counter := h.2.counter, payloadSize := h.2.size, headerCrc := h.2.hcrc, payloadCrc := h.2.pcrc,
            src := .cb }) ∧
        t.cb = s.cb ∧ t.enc = s.enc ∧ t.cfg = s.cfg ∧ t.mem = s.mem ∧ t.inputs = s.inputs)

/-- 44_scanner.md section 2: the loop and the state machine give the same records, count, final cursor and stop reason
for every stream, and the loop needs at most one pass more than the stream has bytes. That the machine runs on a fixed
number of rows is log entry 16. -/
def Obligations.ScannerLoopEqualsStateMachine : Prop :=
  ∀ (c : Config) (w : List Byte), scanLoop c w (w.length + 1) 0 [] = some (scanStream c w)

/-- 44_scanner.md section 5: forward progress. Every candidate the scanner leaves without stopping raises the cursor, the
cursor never passes the end, and the scan ends, with at least 10 bytes consumed for every frame found. That the machine
runs on a fixed number of rows is log entry 16. -/
def Obligations.ScannerAlwaysFinishes : Prop :=
  ∀ (c : Config) (w : List Byte),
    (∀ r : ScanRun, r.phase = .candidate → (scanTick c w r).phase = .search → r.cursor < (scanTick c w r).cursor) ∧
    (∀ k, (scanTicks c w k scanStart).cursor ≤ (scanTicks c w (k + 1) scanStart).cursor ∧
      (scanTicks c w k scanStart).cursor ≤ w.length) ∧
    (scanStream c w).phase = .done ∧
    ((scanStream c w).stop = .noPreamble ∨ (scanStream c w).stop = .tooShort ∨ (scanStream c w).stop = .incomplete) ∧
    (scanStream c w).count = (scanStream c w).hits.length ∧
    10 * (scanStream c w).count ≤ (scanStream c w).cursor

/-- R240: at a candidate with room for a minimum frame the decoder answers no error but a checksum mismatch, or
`IncompleteFrame` from its step 4: a valid header whose payload is not all there. -/
def Obligations.ScannerMeetsThreeErrorsOnly : Prop :=
  ∀ (c : Config) (w : List Byte) (p : Nat) (k : ErrorKind),
    preambleAt c w p = true → 10 ≤ w.length - p → decodeFrame c (w.drop p) = .error k →
    k = .invalidHeaderCrc ∨ k = .invalidPayloadCrc ∨
    (k = .incompleteFrame ∧ crc16 c ((w.drop p).take 6) = rd16le (w.drop p) 6 ∧
      w.length - p < (rd16le (w.drop p) 4).toNat + 10)

/-- 44_scanner.md section 2 (why `IncompleteFrame` ends the scan): when the first candidate is incomplete the scan ends
there, whatever stands after it. -/
def Obligations.IncompleteCandidateEndsTheScan : Prop :=
  ∀ (c : Config) (w : List Byte) (p : Nat),
    (∀ q < p, preambleAt c w q = false) → preambleAt c w p = true → 10 ≤ w.length - p →
    decodeFrame c (w.drop p) = .error .incompleteFrame →
    scanStream c w = { phase := .done, cursor := p, count := 0, stop := .incomplete, hits := [] }

/-- 44_scanner.md section 5: resynchronisation. When the first candidate fails a checksum, the scan goes on as a scan of
the stream from the next byte. -/
def Obligations.FailedCandidateIsSkippedByOneByte : Prop :=
  ∀ (c : Config) (w : List Byte) (p : Nat) (k : ErrorKind),
    (∀ q < p, preambleAt c w q = false) → preambleAt c w p = true → 10 ≤ w.length - p →
    decodeFrame c (w.drop p) = .error k → k ≠ .incompleteFrame →
    scanStream c w =
      { phase := .done
        cursor := p + 1 + (scanStream c (w.drop (p + 1))).cursor
        count := (scanStream c (w.drop (p + 1))).count
        stop := (scanStream c (w.drop (p + 1))).stop
        hits := shiftHits (p + 1) (scanStream c (w.drop (p + 1))).hits }

/-- 44_scanner.md section 5, property (a): a clean stream of any number of frames is found whole, every frame at its
offset with its own fields, and the scan ends at the end of the stream. -/
def Obligations.CleanStreamIsFoundWhole : Prop :=
  ∀ (c : Config) (fs : List (Half × List Byte)), (∀ f ∈ fs, f.2.length ≤ 65535) →
    scanStream c (cleanStream c fs) =
      { phase := .done, cursor := (cleanStream c fs).length, count := fs.length, stop := .noPreamble,
        hits := cleanHits c 0 fs }

/-- 44_scanner.md section 5, property (b): leading junk that holds no preamble shifts what is found and changes nothing
else. -/
def Obligations.LeadingJunkIsSkipped : Prop :=
  ∀ (c : Config) (j w : List Byte), (∀ q < j.length, preambleAt c (j ++ w) q = false) →
    (scanStream c (j ++ w)).hits = shiftHits j.length (scanStream c w).hits ∧
    (scanStream c (j ++ w)).count = (scanStream c w).count ∧
    (scanStream c (j ++ w)).stop = (scanStream c w).stop ∧
    (w ≠ [] → (scanStream c (j ++ w)).cursor = j.length + (scanStream c w).cursor)

/-- 44_scanner.md section 5, property (c): resynchronisation over one flipped byte. In a clean stream with all bits of
one byte flipped, where no position but a frame's start is a candidate whose header checksum matches, a scan finds
exactly the frames the byte is not in. The generator has a non-zero constant term (40_crc.md section 3). -/
def Obligations.OneFlippedByteLosesOneFrame : Prop :=
  ∀ (c : Config) (fs : List (Half × List Byte)) (k : Nat) (w' : List Byte),
    c.crcPoly.getLsbD 0 = true → (∀ f ∈ fs, f.2.length ≤ 65535) → k < (cleanStream c fs).length →
    w' = (cleanStream c fs).set k (~~~ byteAt (cleanStream c fs) k) →
    (∀ q, q + 10 ≤ w'.length → preambleAt c w' q = true →
      crc16 c ((w'.drop q).take 6) = rd16le (w'.drop q) 6 → q ∈ (cleanHits c 0 fs).map Prod.fst) →
    (scanStream c w').hits = (cleanHits c 0 fs).filter (fun h => !decide (h.1 ≤ k ∧ k < h.1 + h.2.total)) ∧
    (scanStream c w').count + 1 = fs.length

/-- 44_scanner.md section 5, property (d): a truncated frame yields no frame, for every truncation length, with the
cursor left at its start. -/
def Obligations.TruncatedFrameYieldsNothing : Prop :=
  ∀ (c : Config) (k : Half) (p : List Byte) (j : Nat), p.length ≤ 65535 → 1 ≤ j → j < p.length + 10 →
    scanStream c ((frameBytes c k p).take j) =
      { phase := .done, cursor := 0, count := 0, hits := [],
        stop := if j = 1 then .noPreamble else if j ≤ 9 then .tooShort else .incomplete }

/-! ## System -/

/-- R260: RD_REG answers the register of its number and changes nothing; an unlisted number makes it illegal; the
configuration registers return the same value always, since no command changes them. -/
def Obligations.RdRegAnswersTheRegister : Prop :=
  ∀ s : State,
    (∀ p ∈ ([(0x00, if s.cb.valid then 1 else 0), (0x01, s.cb.base), (0x02, s.cb.cap), (0x03, s.cb.app),
        (0x04, s.cb.con), (0x05, s.cb.free), (0x08, if s.enc.valid then 1 else 0), (0x09, s.enc.base),
        (0x0A, s.enc.cap), (0x0B, BitVec.ofNat 32 s.enc.counter.toNat), (0x10, s.sc.cursor), (0x11, s.sc.count),
        (0x12, BitVec.ofNat 32 s.sc.stop.code.toNat), (0x18, BitVec.ofNat 32 s.cfg.maxPayload.toNat),
        (0x19, BitVec.ofNat 32 (s.cfg.preamble0.toNat + 256 * s.cfg.preamble1.toNat)),
        (0x1A, BitVec.ofNat 32 (s.cfg.crcPoly.toNat + 65536 * s.cfg.crcInit.toNat))] : List (Word × Word)),
      exec (.rdReg p.1) s = .next (s.setResponse ⟨0, p.2, 0, 0, 0⟩)) ∧
    (∀ n : Word, n.toNat ∉ [0x00, 0x01, 0x02, 0x03, 0x04, 0x05, 0x08, 0x09, 0x0A, 0x0B, 0x10, 0x11, 0x12, 0x18,
        0x19, 0x1A] →
      exec (.rdReg n) s = .next (s.setResponse ⟨0xFF, 0, 0, 0, 0⟩)) ∧
    (∀ (i : Instr) (t : State), exec i s = .next t → t.cfg = s.cfg)

/-! ## Frames and whole-machine rules -/

/-- 10_state.md section 6 ("written by"), 45_system.md section 2: which command can change which register, byte or
output. CRC16, FRAME_SIZE, DECODE and RD_REG change the response only. -/
def Obligations.RegistersChangeOnlyByTheirUnit : Prop :=
  ∀ (i : Instr) (s t : State), exec i s = .next t →
    t.cfg = s.cfg ∧ t.inputs = s.inputs ∧
    ((∀ ref n, i ≠ .cbInit ref n) → t.cb.valid = s.cb.valid ∧ t.cb.base = s.cb.base ∧ t.cb.cap = s.cb.cap) ∧
    ((∀ ref n, i ≠ .cbInit ref n) → (∀ ref n, i ≠ .cbAppend ref n) → t.cb.app = s.cb.app) ∧
    ((∀ ref n, i ≠ .cbInit ref n) → (∀ ref n, i ≠ .cbConsume ref n) → t.cb.con = s.cb.con) ∧
    ((∀ ref n, i ≠ .cbInit ref n) → (∀ ref n, i ≠ .cbAppend ref n) → (∀ ref n, i ≠ .cbConsume ref n) →
      t.cb.free = s.cb.free) ∧
    ((∀ ref n, i ≠ .encInit ref n) → t.enc.valid = s.enc.valid ∧ t.enc.base = s.enc.base ∧ t.enc.cap = s.enc.cap) ∧
    ((∀ ref n, i ≠ .encInit ref n) → (∀ ref n, i ≠ .encBuild ref n) → (∀ n, i ≠ .encSetCounter n) →
      t.enc.counter = s.enc.counter) ∧
    ((∀ w k, i ≠ .scan w k) → t.sc = s.sc ∧ t.sink = s.sink) ∧
    ((∀ ref n, i ≠ .cbInit ref n) → (∀ ref n, i ≠ .cbAppend ref n) → (∀ ref n, i ≠ .cbConsume ref n) →
      (∀ ref n, i ≠ .encBuild ref n) → t.mem = s.mem)

/-- 20_memory.md section 6, the write column: a command changes no byte outside its footprint, and nothing at all when it
fails. -/
def Obligations.WritesStayInTheFootprint : Prop :=
  ∀ (i : Instr) (s t : State), exec i s = .next t →
    (∀ x, ¬ writesByte i s x → t.mem.read x = s.mem.read x) ∧ (t.succeeded = false → t.mem = s.mem)

/-- 20_memory.md section 6, the read column: what a command does depends on the registers and on the bytes of its read
footprint only. Two states that agree there give the same response, registers, records and written bytes. -/
def Obligations.ReadsStayInTheFootprint : Prop :=
  ∀ (i : Instr) (s₁ s₂ t₁ : State),
    s₁.cb = s₂.cb → s₁.enc = s₂.enc → s₁.sc = s₂.sc → s₁.cfg = s₂.cfg →
    (∀ x, readsByte i s₁ x → s₁.mem.read x = s₂.mem.read x) →
    exec i s₁ = .next t₁ →
    ∃ t₂ rs, exec i s₂ = .next t₂ ∧ t₂.response = t₁.response ∧
      t₂.cb = t₁.cb ∧ t₂.enc = t₁.enc ∧ t₂.sc = t₁.sc ∧
      t₁.sink = s₁.sink ++ rs ∧ t₂.sink = s₂.sink ++ rs ∧
      (t₁.succeeded = true → ∀ x, writesByte i s₁ x → t₂.mem.read x = t₁.mem.read x)
end

