-- ==== Sys2Proof/Laws/State.lean ====
section
/-! SUPPORT. One lemma per field per update of State, true by rfl, so that no proof unfolds a record update. -/

namespace Sys2Proof.Machine

variable (s : State)

/-! ## setCb -/

@[simp] theorem State.setCb_cb (c : CircBuf) : (s.setCb c).cb = c := rfl
@[simp] theorem State.setCb_enc (c : CircBuf) : (s.setCb c).enc = s.enc := rfl
@[simp] theorem State.setCb_sc (c : CircBuf) : (s.setCb c).sc = s.sc := rfl
@[simp] theorem State.setCb_cfg (c : CircBuf) : (s.setCb c).cfg = s.cfg := rfl
@[simp] theorem State.setCb_mem (c : CircBuf) : (s.setCb c).mem = s.mem := rfl
@[simp] theorem State.setCb_inputs (c : CircBuf) : (s.setCb c).inputs = s.inputs := rfl
@[simp] theorem State.setCb_response (c : CircBuf) : (s.setCb c).response = s.response := rfl
@[simp] theorem State.setCb_sink (c : CircBuf) : (s.setCb c).sink = s.sink := rfl

/-! ## setEnc -/

@[simp] theorem State.setEnc_cb (e : Encoder) : (s.setEnc e).cb = s.cb := rfl
@[simp] theorem State.setEnc_enc (e : Encoder) : (s.setEnc e).enc = e := rfl
@[simp] theorem State.setEnc_sc (e : Encoder) : (s.setEnc e).sc = s.sc := rfl
@[simp] theorem State.setEnc_cfg (e : Encoder) : (s.setEnc e).cfg = s.cfg := rfl
@[simp] theorem State.setEnc_mem (e : Encoder) : (s.setEnc e).mem = s.mem := rfl
@[simp] theorem State.setEnc_inputs (e : Encoder) : (s.setEnc e).inputs = s.inputs := rfl
@[simp] theorem State.setEnc_response (e : Encoder) : (s.setEnc e).response = s.response := rfl
@[simp] theorem State.setEnc_sink (e : Encoder) : (s.setEnc e).sink = s.sink := rfl

/-! ## setSc -/

@[simp] theorem State.setSc_cb (c : Scanner) : (s.setSc c).cb = s.cb := rfl
@[simp] theorem State.setSc_enc (c : Scanner) : (s.setSc c).enc = s.enc := rfl
@[simp] theorem State.setSc_sc (c : Scanner) : (s.setSc c).sc = c := rfl
@[simp] theorem State.setSc_cfg (c : Scanner) : (s.setSc c).cfg = s.cfg := rfl
@[simp] theorem State.setSc_mem (c : Scanner) : (s.setSc c).mem = s.mem := rfl
@[simp] theorem State.setSc_inputs (c : Scanner) : (s.setSc c).inputs = s.inputs := rfl
@[simp] theorem State.setSc_response (c : Scanner) : (s.setSc c).response = s.response := rfl
@[simp] theorem State.setSc_sink (c : Scanner) : (s.setSc c).sink = s.sink := rfl

/-! ## setMem -/

@[simp] theorem State.setMem_cb (m : Memory) : (s.setMem m).cb = s.cb := rfl
@[simp] theorem State.setMem_enc (m : Memory) : (s.setMem m).enc = s.enc := rfl
@[simp] theorem State.setMem_sc (m : Memory) : (s.setMem m).sc = s.sc := rfl
@[simp] theorem State.setMem_cfg (m : Memory) : (s.setMem m).cfg = s.cfg := rfl
@[simp] theorem State.setMem_mem (m : Memory) : (s.setMem m).mem = m := rfl
@[simp] theorem State.setMem_inputs (m : Memory) : (s.setMem m).inputs = s.inputs := rfl
@[simp] theorem State.setMem_response (m : Memory) : (s.setMem m).response = s.response := rfl
@[simp] theorem State.setMem_sink (m : Memory) : (s.setMem m).sink = s.sink := rfl

/-! ## setInputs -/

@[simp] theorem State.setInputs_cb (l : List Input) : (s.setInputs l).cb = s.cb := rfl
@[simp] theorem State.setInputs_enc (l : List Input) : (s.setInputs l).enc = s.enc := rfl
@[simp] theorem State.setInputs_sc (l : List Input) : (s.setInputs l).sc = s.sc := rfl
@[simp] theorem State.setInputs_cfg (l : List Input) : (s.setInputs l).cfg = s.cfg := rfl
@[simp] theorem State.setInputs_mem (l : List Input) : (s.setInputs l).mem = s.mem := rfl
@[simp] theorem State.setInputs_inputs (l : List Input) : (s.setInputs l).inputs = l := rfl
@[simp] theorem State.setInputs_response (l : List Input) : (s.setInputs l).response = s.response := rfl
@[simp] theorem State.setInputs_sink (l : List Input) : (s.setInputs l).sink = s.sink := rfl

/-! ## setResponse -/

@[simp] theorem State.setResponse_cb (r : Response) : (s.setResponse r).cb = s.cb := rfl
@[simp] theorem State.setResponse_enc (r : Response) : (s.setResponse r).enc = s.enc := rfl
@[simp] theorem State.setResponse_sc (r : Response) : (s.setResponse r).sc = s.sc := rfl
@[simp] theorem State.setResponse_cfg (r : Response) : (s.setResponse r).cfg = s.cfg := rfl
@[simp] theorem State.setResponse_mem (r : Response) : (s.setResponse r).mem = s.mem := rfl
@[simp] theorem State.setResponse_inputs (r : Response) : (s.setResponse r).inputs = s.inputs := rfl
@[simp] theorem State.setResponse_response (r : Response) : (s.setResponse r).response = some r := rfl
@[simp] theorem State.setResponse_sink (r : Response) : (s.setResponse r).sink = s.sink := rfl

/-! ## deliver -/

@[simp] theorem State.deliver_cb (rs : List FrameRecord) : (s.deliver rs).cb = s.cb := rfl
@[simp] theorem State.deliver_enc (rs : List FrameRecord) : (s.deliver rs).enc = s.enc := rfl
@[simp] theorem State.deliver_sc (rs : List FrameRecord) : (s.deliver rs).sc = s.sc := rfl
@[simp] theorem State.deliver_cfg (rs : List FrameRecord) : (s.deliver rs).cfg = s.cfg := rfl
@[simp] theorem State.deliver_mem (rs : List FrameRecord) : (s.deliver rs).mem = s.mem := rfl
@[simp] theorem State.deliver_inputs (rs : List FrameRecord) : (s.deliver rs).inputs = s.inputs := rfl
@[simp] theorem State.deliver_response (rs : List FrameRecord) : (s.deliver rs).response = s.response := rfl
@[simp] theorem State.deliver_sink (rs : List FrameRecord) : (s.deliver rs).sink = s.sink ++ rs := rfl

/-! ## Updates that set nothing new -/

@[simp] theorem State.setMem_self : s.setMem s.mem = s := rfl
@[simp] theorem State.setCb_self : s.setCb s.cb = s := rfl
@[simp] theorem State.setEnc_self : s.setEnc s.enc = s := rfl
@[simp] theorem State.setResponse_setResponse (r q : Response) : (s.setResponse r).setResponse q = s.setResponse q := rfl

/-! ## Two host actions (R320, R50) -/

@[simp] theorem applyReset_cb : (applyReset s).cb = State.reset.cb := rfl
@[simp] theorem applyReset_enc : (applyReset s).enc = State.reset.enc := rfl
@[simp] theorem applyReset_sc : (applyReset s).sc = State.reset.sc := rfl
@[simp] theorem applyReset_cfg : (applyReset s).cfg = s.cfg := rfl
@[simp] theorem applyReset_mem : (applyReset s).mem = s.mem := rfl
@[simp] theorem applyReset_inputs : (applyReset s).inputs = s.inputs := rfl
@[simp] theorem applyReset_response : (applyReset s).response = State.reset.response := rfl
@[simp] theorem applyReset_sink : (applyReset s).sink = State.reset.sink := rfl

/-! ## Slots and contents depend on the buffer registers (and memory) only -/

@[simp] theorem State.setEnc_occupied (e : Encoder) : (s.setEnc e).occupied = s.occupied := rfl
@[simp] theorem State.setEnc_headSlot (e : Encoder) : (s.setEnc e).headSlot = s.headSlot := rfl
@[simp] theorem State.setEnc_tailSlot (e : Encoder) : (s.setEnc e).tailSlot = s.tailSlot := rfl
@[simp] theorem State.setEnc_content (e : Encoder) : (s.setEnc e).content = s.content := rfl
@[simp] theorem State.setSc_occupied (c : Scanner) : (s.setSc c).occupied = s.occupied := rfl
@[simp] theorem State.setSc_headSlot (c : Scanner) : (s.setSc c).headSlot = s.headSlot := rfl
@[simp] theorem State.setSc_tailSlot (c : Scanner) : (s.setSc c).tailSlot = s.tailSlot := rfl
@[simp] theorem State.setSc_content (c : Scanner) : (s.setSc c).content = s.content := rfl
@[simp] theorem State.setMem_occupied (m : Memory) : (s.setMem m).occupied = s.occupied := rfl
@[simp] theorem State.setMem_headSlot (m : Memory) : (s.setMem m).headSlot = s.headSlot := rfl
@[simp] theorem State.setMem_tailSlot (m : Memory) : (s.setMem m).tailSlot = s.tailSlot := rfl
@[simp] theorem State.setInputs_occupied (l : List Input) : (s.setInputs l).occupied = s.occupied := rfl
@[simp] theorem State.setInputs_headSlot (l : List Input) : (s.setInputs l).headSlot = s.headSlot := rfl
@[simp] theorem State.setInputs_tailSlot (l : List Input) : (s.setInputs l).tailSlot = s.tailSlot := rfl
@[simp] theorem State.setInputs_content (l : List Input) : (s.setInputs l).content = s.content := rfl
@[simp] theorem State.setResponse_occupied (r : Response) : (s.setResponse r).occupied = s.occupied := rfl
@[simp] theorem State.setResponse_headSlot (r : Response) : (s.setResponse r).headSlot = s.headSlot := rfl
@[simp] theorem State.setResponse_tailSlot (r : Response) : (s.setResponse r).tailSlot = s.tailSlot := rfl
@[simp] theorem State.setResponse_content (r : Response) : (s.setResponse r).content = s.content := rfl
@[simp] theorem State.deliver_occupied (rs : List FrameRecord) : (s.deliver rs).occupied = s.occupied := rfl
@[simp] theorem State.deliver_headSlot (rs : List FrameRecord) : (s.deliver rs).headSlot = s.headSlot := rfl
@[simp] theorem State.deliver_tailSlot (rs : List FrameRecord) : (s.deliver rs).tailSlot = s.tailSlot := rfl
@[simp] theorem State.deliver_content (rs : List FrameRecord) : (s.deliver rs).content = s.content := rfl

end Sys2Proof.Machine
end

