-- ==== Sys2Proof/Laws/Memory.lean ====
section
/-! SUPPORT. The laws of byte memory: what a read after a write gives, that every operation keeps the canonical form,
and that two canonical memories that hold the same bytes are the same data. -/

namespace Sys2Proof.Machine

/-! ## One byte -/

@[simp] theorem Memory.lookup_nil (x : Nat) : Memory.lookup [] x = none := rfl

theorem Memory.lookup_cons (a : Nat) (b : Byte) (m : Memory) (x : Nat) :
    Memory.lookup ((a, b) :: m) x = if x = a then some b else m.lookup x := rfl

theorem Memory.lookup_write (m : Memory) (x : Nat) (v : Byte) (y : Nat) :
    (m.write x v).lookup y = if y = x then some v else m.lookup y := by
  induction m with
  | nil => rfl
  | cons c m ih =>
    obtain ⟨a, b⟩ := c
    simp only [Memory.write]
    split
    · rfl
    · split
      · subst x; simp only [Memory.lookup_cons]; split <;> rfl
      · simp only [Memory.lookup_cons, ih]
        by_cases h : y = a
        · subst h; simp_all [eq_comm]
        · simp [h]

theorem Memory.read_write (m : Memory) (x : Nat) (v : Byte) (y : Nat) :
    (m.write x v).read y = if y = x then v else m.read y := by
  simp only [Memory.read, Memory.lookup_write]
  split <;> rfl

@[simp] theorem Memory.read_write_same (m : Memory) (x : Nat) (v : Byte) : (m.write x v).read x = v := by
  simp [Memory.read_write]

theorem Memory.read_write_ne (m : Memory) {x y : Nat} (v : Byte) (h : y ≠ x) : (m.write x v).read y = m.read y := by
  simp [Memory.read_write, h]

/-- A byte nobody has written reads as the free value of its address, at reset everywhere. -/
@[simp] theorem Memory.read_nil (x : Nat) : Memory.read [] x = Config.unwrittenByte x := rfl

/-! ## Several bytes -/

@[simp] theorem Memory.readAt_length (m : Memory) (f : Nat → Nat) (n : Nat) : (m.readAt f n).length = n := by
  simp [Memory.readAt]

theorem Memory.readAt_getElem (m : Memory) (f : Nat → Nat) (n i : Nat) (h : i < (m.readAt f n).length) :
    (m.readAt f n)[i] = m.read (f i) := by
  simp [Memory.readAt]

@[simp] theorem Memory.readAt_zero (m : Memory) (f : Nat → Nat) : m.readAt f 0 = [] := rfl

/-- A read of several bytes depends on those bytes only. -/
theorem Memory.readAt_congr {m m' : Memory} {f g : Nat → Nat} {n : Nat}
    (h : ∀ i < n, m.read (f i) = m'.read (g i)) : m.readAt f n = m'.readAt g n := by
  simp only [Memory.readAt]
  exact List.map_congr_left fun i hi => h i (List.mem_range.mp hi)

theorem Memory.readAt_add (m : Memory) (f : Nat → Nat) (n k : Nat) :
    m.readAt f (n + k) = m.readAt f n ++ m.readAt (fun i => f (n + i)) k := by
  simp [Memory.readAt, List.range_add, Function.comp_def]

theorem Memory.readAt_take (m : Memory) (f : Nat → Nat) {n k : Nat} (h : k ≤ n) :
    (m.readAt f n).take k = m.readAt f k := by
  obtain ⟨j, rfl⟩ := Nat.exists_eq_add_of_le h
  simp [Memory.readAt_add]

theorem Memory.readAt_drop (m : Memory) (f : Nat → Nat) {n k : Nat} (h : k ≤ n) :
    (m.readAt f n).drop k = m.readAt (fun i => f (k + i)) (n - k) := by
  obtain ⟨j, rfl⟩ := Nat.exists_eq_add_of_le h
  simp [Memory.readAt_add]

/-- A store leaves every byte alone that is not at one of its addresses. -/
theorem Memory.read_writeAt_of_forall_ne (m : Memory) (f : Nat → Nat) (bs : List Byte) (x : Nat)
    (h : ∀ i < bs.length, x ≠ f i) : (m.writeAt f bs).read x = m.read x := by
  induction bs generalizing m f with
  | nil => rfl
  | cons b bs ih =>
    simp only [Memory.writeAt]
    rw [ih _ _ fun i hi => h (i + 1) (by simpa using hi)]
    exact Memory.read_write_ne m b (h 0 (by simp))

/-- Byte `i` of a store is at its address afterwards, when no later byte of the store goes there. -/
theorem Memory.read_writeAt (m : Memory) (f : Nat → Nat) (bs : List Byte) (i : Nat) (hi : i < bs.length)
    (hf : ∀ j < bs.length, i < j → f j ≠ f i) : (m.writeAt f bs).read (f i) = bs[i] := by
  induction bs generalizing m f i with
  | nil => simp at hi
  | cons b bs ih =>
    simp only [Memory.writeAt]
    cases i with
    | zero =>
      rw [Memory.read_writeAt_of_forall_ne _ _ _ _ fun j hj => (hf (j + 1) (by simpa using hj) (by omega)).symm]
      simp
    | succ i =>
      have := ih (m.write (f 0) b) (fun k => f (k + 1)) i (by simpa using hi)
        (fun j hj hij => hf (j + 1) (by simpa using hj) (by omega))
      simpa using this

/-- What a store wrote reads back, when its addresses differ. -/
theorem Memory.readAt_writeAt (m : Memory) (f : Nat → Nat) (bs : List Byte)
    (hf : ∀ i < bs.length, ∀ j < bs.length, i < j → f j ≠ f i) : (m.writeAt f bs).readAt f bs.length = bs := by
  apply List.ext_getElem (by simp)
  intro i h₁ h₂
  rw [Memory.readAt_getElem, Memory.read_writeAt m f bs i h₂ fun j hj => hf i h₂ j hj]

/-- Two stores of the same bytes to the same addresses agree there, whatever was there before. -/
theorem Memory.read_writeAt_agree (m m' : Memory) (f : Nat → Nat) (bs : List Byte) (x : Nat)
    (h : (∃ i < bs.length, x = f i) ∨ m.read x = m'.read x) :
    (m.writeAt f bs).read x = (m'.writeAt f bs).read x := by
  induction bs generalizing m m' f with
  | nil => simpa [Memory.writeAt] using h
  | cons b bs ih =>
    simp only [Memory.writeAt]
    apply ih
    rcases h with ⟨i, hi, hx⟩ | h
    · cases i with
      | zero => exact .inr (by simp [hx])
      | succ i => exact .inl ⟨i, by simpa using hi, hx⟩
    · exact .inr (by simp [Memory.read_write, h])

theorem Memory.writeAt_append (m : Memory) (f : Nat → Nat) (bs cs : List Byte) :
    m.writeAt f (bs ++ cs) = (m.writeAt f bs).writeAt (fun i => f (bs.length + i)) cs := by
  induction bs generalizing m f with
  | nil => simp [Memory.writeAt]
  | cons b bs ih =>
    simp only [List.cons_append, Memory.writeAt, ih, List.length_cons]
    congr 1
    funext i
    congr 1
    omega

theorem Memory.writeAt_congr (m : Memory) {f g : Nat → Nat} (bs : List Byte) (h : ∀ i < bs.length, f i = g i) :
    m.writeAt f bs = m.writeAt g bs := by
  induction bs generalizing m f g with
  | nil => rfl
  | cons b bs ih =>
    simp only [Memory.writeAt]
    rw [h 0 (by simp), ih _ fun i hi => h (i + 1) (by simpa using hi)]

/-! ## Address sequences -/

@[simp] theorem span_apply (a i : Nat) : span a i = a + i := rfl

theorem ring_apply (base cap start i : Nat) : ring base cap start i = base + (start + i) % cap := rfl

/-- The slots of a ring differ over one turn. -/
theorem ring_ne {base cap start i j : Nat} (hij : i < j) (hj : j < i + cap) :
    ring base cap start j ≠ ring base cap start i := by
  simp only [ring_apply, ne_eq, Nat.add_left_cancel_iff]
  intro h
  have h2 : (start + j - (start + i)) % cap = 0 := Nat.sub_mod_eq_zero_of_mod_eq h
  have h3 : start + j - (start + i) = j - i := by omega
  rw [h3, Nat.mod_eq_of_lt (by omega)] at h2
  omega

/-- A slot of a ring lies in its storage. -/
theorem ring_lt {base cap start i : Nat} (hc : 1 ≤ cap) : ring base cap start i < base + cap := by
  have := Nat.mod_lt (start + i) (show cap > 0 by omega)
  simp only [ring_apply]; omega

theorem le_ring (base cap start i : Nat) : base ≤ ring base cap start i := by simp [ring_apply]

/-! ## The canonical form -/

theorem Memory.mem_write {m : Memory} {x : Nat} {v : Byte} {c : Host.Cell} (h : c ∈ m.write x v) :
    c = (x, v) ∨ c ∈ m := by
  induction m with
  | nil => simpa [Memory.write] using h
  | cons d m ih =>
    obtain ⟨a, b⟩ := d
    simp only [Memory.write] at h
    split at h
    · simpa using h
    · split at h
      · rcases List.mem_cons.mp h with h | h
        · exact .inl h
        · exact .inr (List.mem_cons_of_mem _ h)
      · rcases List.mem_cons.mp h with h | h
        · exact .inr (by simp [h])
        · exact (ih h).imp id (List.mem_cons_of_mem _)

/-- A write keeps the canonical form. -/
theorem Memory.write_wf {m : Memory} {x : Nat} {v : Byte} (hm : m.wf) (hx : x < memSize) : (m.write x v).wf := by
  refine ⟨?_, fun c hc => ?_⟩
  · have hp := hm.1
    clear hm
    induction m with
    | nil => simp [Memory.write]
    | cons d m ih =>
      obtain ⟨a, b⟩ := d
      rw [List.pairwise_cons] at hp
      simp only [Memory.write]
      split
      · rename_i hxa
        refine List.pairwise_cons.mpr ⟨fun c hc => ?_, List.pairwise_cons.mpr hp⟩
        rcases List.mem_cons.mp hc with rfl | hc
        · exact hxa
        · exact lt_trans hxa (hp.1 c hc)
      · split
        · rename_i _ hxa
          subst hxa
          exact List.pairwise_cons.mpr hp
        · refine List.pairwise_cons.mpr ⟨fun c hc => ?_, ih hp.2⟩
          rcases Memory.mem_write hc with rfl | hc
          · show a < x
            omega
          · exact hp.1 c hc
  · rcases Memory.mem_write hc with rfl | hc
    · exact hx
    · exact hm.2 c hc

/-- A store inside `MEM` keeps the canonical form. -/
theorem Memory.writeAt_wf {m : Memory} {f : Nat → Nat} {bs : List Byte} (hm : m.wf)
    (hf : ∀ i < bs.length, f i < memSize) : (m.writeAt f bs).wf := by
  induction bs generalizing m f with
  | nil => exact hm
  | cons b bs ih =>
    exact ih (Memory.write_wf hm (hf 0 (by simp))) fun i hi => hf (i + 1) (by simpa using hi)

theorem Memory.lookup_eq_none_of_lt {m : Memory} {a : Nat} (h : ∀ c ∈ m, a < c.1) : m.lookup a = none := by
  induction m with
  | nil => rfl
  | cons d m ih =>
    obtain ⟨b, v⟩ := d
    have hb : a < b := h (b, v) (by simp)
    rw [Memory.lookup_cons, if_neg (by omega)]
    exact ih fun c hc => h c (List.mem_cons_of_mem _ hc)

/-- Equal memories are equal data: two canonical memories in which the same addresses have been written with the same
bytes are the same list. -/
theorem Memory.ext {m m' : Memory} (hm : m.wf) (hm' : m'.wf) (h : ∀ x, m.lookup x = m'.lookup x) : m = m' := by
  have hp := hm.1
  have hp' := hm'.1
  clear hm hm'
  induction m generalizing m' with
  | nil =>
    cases m' with
    | nil => rfl
    | cons d m' => have := h d.1; simp [Memory.lookup] at this
  | cons c m ih =>
    cases m' with
    | nil => have := h c.1; simp [Memory.lookup] at this
    | cons d m' =>
      obtain ⟨a, b⟩ := c
      obtain ⟨a', b'⟩ := d
      rw [List.pairwise_cons] at hp hp'
      have key : a = a' := by
        rcases Nat.lt_trichotomy a a' with hlt | heq | hlt
        · have h1 := h a
          rw [Memory.lookup_cons, if_pos rfl, Memory.lookup_cons, if_neg (by omega),
            Memory.lookup_eq_none_of_lt fun c hc => lt_trans hlt (hp'.1 c hc)] at h1
          simp at h1
        · exact heq
        · have h1 := h a'
          rw [Memory.lookup_cons, if_neg (by omega), Memory.lookup_cons, if_pos rfl,
            Memory.lookup_eq_none_of_lt fun c hc => lt_trans hlt (hp.1 c hc)] at h1
          simp at h1
      subst key
      have hb : b = b' := by have := h a; simpa [Memory.lookup_cons] using this
      subst hb
      congr 1
      refine ih (fun x => ?_) hp.2 hp'.2
      by_cases hx : x = a
      · subst hx
        rw [Memory.lookup_eq_none_of_lt hp.1, Memory.lookup_eq_none_of_lt hp'.1]
      · have := h x
        simpa [Memory.lookup_cons, hx] using this

end Sys2Proof.Machine
end

