-- ==== Sys2Proof/Laws/Ops.lean ====
section
/-! SUPPORT. How a command can end: one lemma per shared ending, and the status codes. -/

namespace Sys2Proof.Machine

/-- Everything `answer` can do: a next state that differs from its argument in the response only. -/
@[simp] theorem answer_eq_next {r : Response} {s t : State} : answer r s = .next t ↔ t = s.setResponse r := by
  simp [answer, eq_comm]

@[simp] theorem raise_eq_next {k : ErrorKind} {s t : State} : raise k s = .next t ↔ t = s.setResponse (.error k) :=
  answer_eq_next

@[simp] theorem illegalCommand_eq_next {s t : State} : illegalCommand s = .next t ↔ t = s.setResponse .illegal :=
  answer_eq_next

@[simp] theorem answer_ne_refused {r : Response} {s : State} {q : Refusal} : answer r s ≠ .refused q := nofun

@[simp] theorem raise_ne_refused {k : ErrorKind} {s : State} {q : Refusal} : raise k s ≠ .refused q := nofun

@[simp] theorem illegalCommand_ne_refused {s : State} {q : Refusal} : illegalCommand s ≠ .refused q := nofun

/-- No two error kinds share a code (R281). -/
theorem ErrorKind.code_injective {k l : ErrorKind} (h : k.code = l.code) : k = l := by
  cases k <;> cases l <;> first | rfl | exact absurd h (by decide)

@[simp] theorem ErrorKind.code_ne_zero (k : ErrorKind) : k.code ≠ 0 := by cases k <;> decide

@[simp] theorem ErrorKind.code_ne_illegal (k : ErrorKind) : k.code ≠ 0xFF := by cases k <;> decide

@[simp] theorem Response.error_status (k : ErrorKind) : (Response.error k).status = k.code := rfl

@[simp] theorem Response.ok_status (a b c d : Word) : (Response.ok a b c d).status = 0 := rfl

@[simp] theorem Response.done_status : Response.done.status = 0 := rfl

@[simp] theorem Response.illegal_status : Response.illegal.status = 0xFF := rfl

@[simp] theorem Response.error_inj {k l : ErrorKind} : Response.error k = Response.error l ↔ k = l :=
  ⟨fun h => ErrorKind.code_injective (congrArg Response.status h), congrArg _⟩

@[simp] theorem Response.ok_ne_error (a b c d : Word) (k : ErrorKind) : Response.ok a b c d ≠ Response.error k :=
  fun h => k.code_ne_zero (congrArg Response.status h).symm

@[simp] theorem Response.done_ne_error (k : ErrorKind) : Response.done ≠ Response.error k :=
  Response.ok_ne_error 0 0 0 0 k

@[simp] theorem Response.illegal_ne_error (k : ErrorKind) : Response.illegal ≠ Response.error k :=
  fun h => k.code_ne_illegal (congrArg Response.status h).symm

end Sys2Proof.Machine
end

