-- ==== Sys2Proof/Laws/Exec.lean ====
section
/-! SUPPORT. One inversion lemma per meaning: if it answers a next state, one of these cases holds. Every error case
leaves the state as it was but for the response; later proofs cite these lemmas instead of unfolding a meaning. -/

namespace Sys2Proof.Machine

variable {ref : Ref} {n : Word} {s t : State}

theorem execCrc16_cases (h : execCrc16 ref n s = .next t) :
    (ref = none ∧ t = s.setResponse (.error .nullPointer)) ∨
    (∃ a, ref = some a ∧ Admissible a n ∧
      t = s.setResponse (.ok ((crc16 s.cfg (s.mem.readAt (span a.toNat) n.toNat)).setWidth 32) 0 0 0)) := by
  cases ref with
  | none => exact .inl ⟨rfl, by simpa [execCrc16] using h⟩
  | some a =>
    simp only [execCrc16] at h
    split at h
    · cases h
    · rename_i ha
      exact .inr ⟨a, rfl, not_not.mp ha, by simpa using h⟩

theorem execCbInit_cases (h : execCbInit ref n s = .next t) :
    (ref = none ∧ t = s.setResponse (.error .nullPointer)) ∨
    (ref.isSome ∧ n.toNat = 0 ∧ t = s.setResponse (.error .bufferTooSmall)) ∨
    (∃ a, ref = some a ∧ n.toNat ≠ 0 ∧ Admissible a n ∧ t = (cbInitEffect a n s).setResponse .done) := by
  cases ref with
  | none => exact .inl ⟨rfl, by simpa [execCbInit] using h⟩
  | some a =>
    simp only [execCbInit] at h
    split at h
    · exact .inr (.inl ⟨rfl, ‹_›, by simpa using h⟩)
    · split at h
      · cases h
      · exact .inr (.inr ⟨a, rfl, ‹_›, not_not.mp ‹_›, by simpa using h⟩)

theorem execCbAppend_cases (h : execCbAppend ref n s = .next t) :
    ((ref = none ∨ s.cb.valid = false) ∧ t = s.setResponse (.error .nullPointer)) ∨
    (ref.isSome ∧ s.cb.valid = true ∧ s.cb.free.toNat < n.toNat ∧ t = s.setResponse (.error .insufficientSpace)) ∨
    (∃ a, ref = some a ∧ s.cb.valid = true ∧ n.toNat ≤ s.cb.free.toNat ∧ Admissible a n ∧
      ¬ Overlap a.toNat n.toNat s.cb.base.toNat s.cb.cap.toNat ∧ t = (cbAppendEffect a n s).setResponse .done) := by
  cases ref with
  | none => exact .inl ⟨.inl rfl, by simpa [execCbAppend] using h⟩
  | some a =>
    simp only [execCbAppend] at h
    split at h
    · exact .inl ⟨.inr (by simpa using ‹¬ s.cb.valid = true›), by simpa using h⟩
    · rename_i hv
      have hv := not_not.mp hv
      split at h
      · exact .inr (.inl ⟨rfl, hv, ‹_›, by simpa using h⟩)
      · split at h
        · cases h
        · split at h
          · cases h
          · exact .inr (.inr ⟨a, rfl, hv, by omega, not_not.mp ‹_›, ‹_›, by simpa using h⟩)

theorem execCbConsume_cases (h : execCbConsume ref n s = .next t) :
    ((ref = none ∨ s.cb.valid = false) ∧ t = s.setResponse (.error .nullPointer)) ∨
    (ref.isSome ∧ s.cb.valid = true ∧ s.occupied < n.toNat ∧ t = s.setResponse (.error .insufficientSpace)) ∨
    (∃ a, ref = some a ∧ s.cb.valid = true ∧ n.toNat ≤ s.occupied ∧ Admissible a n ∧
      ¬ Overlap a.toNat n.toNat s.cb.base.toNat s.cb.cap.toNat ∧ t = (cbConsumeEffect a n s).setResponse .done) := by
  cases ref with
  | none => exact .inl ⟨.inl rfl, by simpa [execCbConsume] using h⟩
  | some a =>
    simp only [execCbConsume] at h
    split at h
    · exact .inl ⟨.inr (by simpa using ‹¬ s.cb.valid = true›), by simpa using h⟩
    · rename_i hv
      have hv := not_not.mp hv
      split at h
      · exact .inr (.inl ⟨rfl, hv, ‹_›, by simpa using h⟩)
      · split at h
        · cases h
        · split at h
          · cases h
          · exact .inr (.inr ⟨a, rfl, hv, by omega, not_not.mp ‹_›, ‹_›, by simpa using h⟩)

theorem execEncInit_cases (h : execEncInit ref n s = .next t) :
    (ref = none ∧ t = s.setResponse (.error .nullPointer)) ∨
    (ref.isSome ∧ n.toNat < 10 ∧ t = s.setResponse (.error .bufferTooSmall)) ∨
    (∃ a, ref = some a ∧ 10 ≤ n.toNat ∧ Admissible a n ∧
      t = (s.setEnc { valid := true, base := a, cap := n, counter := 0 }).setResponse .done) := by
  cases ref with
  | none => exact .inl ⟨rfl, by simpa [execEncInit] using h⟩
  | some a =>
    simp only [execEncInit] at h
    split at h
    · exact .inr (.inl ⟨rfl, ‹_›, by simpa using h⟩)
    · split at h
      · cases h
      · exact .inr (.inr ⟨a, rfl, Nat.le_of_not_lt ‹¬ n.toNat < minFrame›, not_not.mp ‹_›, by simpa using h⟩)

theorem execEncBuild_cases (h : execEncBuild ref n s = .next t) :
    ((ref = none ∨ s.enc.valid = false) ∧ t = s.setResponse (.error .nullPointer)) ∨
    (ref.isSome ∧ s.enc.valid = true ∧ s.cfg.maxPayload.toNat < n.toNat ∧
      t = s.setResponse (.error .payloadTooLarge)) ∨
    (ref.isSome ∧ s.enc.valid = true ∧ n.toNat ≤ s.cfg.maxPayload.toNat ∧ s.enc.cap.toNat < n.toNat + 10 ∧
      t = s.setResponse (.error .bufferTooSmall)) ∨
    (∃ a, ref = some a ∧ s.enc.valid = true ∧ n.toNat ≤ s.cfg.maxPayload.toNat ∧ n.toNat + 10 ≤ s.enc.cap.toNat ∧
      Admissible a n ∧ Admissible s.enc.base s.enc.cap ∧
      ¬ Overlap a.toNat n.toNat s.enc.base.toNat (n.toNat + 10) ∧
      t = (encBuildEffect a n s).setResponse (.ok (n + 10) 0 0 0)) := by
  cases ref with
  | none => exact .inl ⟨.inl rfl, by simpa [execEncBuild] using h⟩
  | some a =>
    simp only [execEncBuild] at h
    split at h
    · exact .inl ⟨.inr (by simpa using ‹¬ s.enc.valid = true›), by simpa using h⟩
    · rename_i hv
      have hv := not_not.mp hv
      split at h
      · exact .inr (.inl ⟨rfl, hv, ‹_›, by simpa using h⟩)
      · split at h
        · exact .inr (.inr (.inl ⟨rfl, hv, by omega, ‹_›, by simpa using h⟩))
        · split at h
          · cases h
          · rename_i hadm
            split at h
            · cases h
            · rw [not_or, not_not, not_not] at hadm
              exact .inr (.inr (.inr ⟨a, rfl, hv, by omega, by omega, hadm.1, hadm.2, ‹_›, by simpa using h⟩))

theorem execFrameSize_cases (h : execFrameSize n s = .next t) : t = s.setResponse (.ok (n + 10) 0 0 0) := by
  simpa [execFrameSize] using h

theorem execEncSetCounter_cases (h : execEncSetCounter n s = .next t) :
    t = (s.setEnc { s.enc with counter := n.extractLsb' 0 16 }).setResponse .done := by
  simpa [execEncSetCounter] using h

theorem execDecode_cases {w : WindowOp} (h : execDecode w s = .next t) :
    (windowOf w s = none ∧ t = s.setResponse (.error .nullPointer)) ∨
    (∃ W, windowOf w s = some W ∧ W.admissible = true ∧
      ((∃ k, decodeFrame s.cfg (W.bytes s) = .error k ∧ t = s.setResponse (.error k)) ∨
       (∃ f, decodeFrame s.cfg (W.bytes s) = .ok f ∧ t = s.setResponse (frameRecord s W 0 f).response))) := by
  simp only [execDecode] at h
  split at h
  · exact .inl ⟨‹_›, by simpa using h⟩
  · rename_i W hW
    split at h
    · cases h
    · rename_i ha
      refine .inr ⟨W, hW, not_not.mp ha, ?_⟩
      split at h
      · exact .inl ⟨_, ‹_›, by simpa using h⟩
      · exact .inr ⟨_, ‹_›, by simpa using h⟩

theorem execScan_cases {w : WindowOp} {sink : Bool} (h : execScan w sink s = .next t) :
    ((windowOf w s = none ∨ sink = false) ∧
      t = (s.setSc { cursor := 0, count := 0, stop := .absent }).setResponse .done) ∨
    (∃ W, windowOf w s = some W ∧ sink = true ∧ W.admissible = true ∧
      t = ((s.setSc (scanStream s.cfg (W.bytes s)).registers).deliver
        ((scanStream s.cfg (W.bytes s)).records s W)).setResponse
          (.ok (scanStream s.cfg (W.bytes s)).registers.count 0 0 0)) := by
  simp only [execScan] at h
  split at h
  · exact .inl ⟨.inl ‹_›, by simpa using h⟩
  · rename_i W hW
    split at h
    · exact .inl ⟨.inr (by simpa using ‹¬ sink = true›), by simpa using h⟩
    · rename_i hs
      split at h
      · cases h
      · exact .inr ⟨W, hW, not_not.mp hs, not_not.mp ‹_›, by simpa using h⟩

theorem execRdReg_cases (h : execRdReg n s = .next t) :
    (Reg.ofNumber? n = none ∧ t = s.setResponse .illegal) ∨
    (∃ r, Reg.ofNumber? n = some r ∧ t = s.setResponse (.ok (regValue r s) 0 0 0)) := by
  simp only [execRdReg] at h
  split at h
  · exact .inl ⟨‹_›, by simpa using h⟩
  · exact .inr ⟨_, ‹_›, by simpa using h⟩

/-- Everything a step can do, by the oldest input. -/
theorem step_cases (h : step s = .next t) :
    (s.inputs = [] ∧ t = s) ∨
    (∃ d rest i, s.inputs = .command d :: rest ∧ decode d = .ok i ∧ exec i (s.setInputs rest) = .next t) ∨
    (∃ d rest e, s.inputs = .command d :: rest ∧ decode d = .error e ∧ t = (s.setInputs rest).setResponse .illegal) ∨
    (∃ rest, s.inputs = .reset :: rest ∧ t = applyReset (s.setInputs rest)) ∨
    (∃ a b rest, s.inputs = .store a b :: rest ∧ t = hostStore a b (s.setInputs rest)) := by
  simp only [step] at h
  split at h
  · exact .inl ⟨‹_›, by simpa [eq_comm] using h⟩
  · rename_i d rest hin
    simp only [runCommand] at h
    split at h
    · exact .inr (.inl ⟨d, rest, _, hin, ‹_›, h⟩)
    · exact .inr (.inr (.inl ⟨d, rest, _, hin, ‹_›, by simpa using h⟩))
  · exact .inr (.inr (.inr (.inl ⟨_, ‹_›, by simpa [eq_comm] using h⟩)))
  · exact .inr (.inr (.inr (.inr ⟨_, _, _, ‹_›, by simpa [eq_comm] using h⟩)))

end Sys2Proof.Machine
end

