-- ==== Sys2Proof/Laws/Frame.lean ====
section
/-! SUPPORT. Small lemmas about the wire frame, the checksum and the scanner's rows. -/

namespace Sys2Proof.Machine

@[simp] theorem le16_length (v : Half) : (le16 v).length = 2 := rfl

@[simp] theorem header6_length (c : Config) (k z : Half) : (header6 c k z).length = 6 := rfl

/-- `frame_size(S) = S + 10` (30_encoding.md R83). -/
@[simp] theorem frameBytes_length (c : Config) (k : Half) (p : List Byte) :
    (frameBytes c k p).length = p.length + 10 := by
  simp only [frameBytes, List.length_append, header6_length, le16_length]
  omega

/-- `rd16le(le16(v), 0) = v` (00_scope.md R12). -/
@[simp] theorem rd16le_le16 (v : Half) (l : List Byte) : rd16le (le16 v ++ l) 0 = v := by
  simp only [rd16le, byteAt, le16, List.cons_append, List.nil_append, List.getD_cons_succ, List.getD_cons_zero]
  ext i hi
  simp only [BitVec.getElem_append, BitVec.getElem_extractLsb']
  split
  · simp [BitVec.getLsbD, BitVec.getElem_eq_testBit_toNat]
  · have : 8 + (i - 8) = i := by omega
    rw [this]; simp [BitVec.getLsbD, BitVec.getElem_eq_testBit_toNat]

theorem byteAt_append_left {l k : List Byte} {i : Nat} (h : i < l.length) : byteAt (l ++ k) i = byteAt l i := by
  simp [byteAt, List.getD, List.getElem?_append_left h]

theorem byteAt_append_right {l k : List Byte} {i : Nat} (h : l.length ≤ i) :
    byteAt (l ++ k) i = byteAt k (i - l.length) := by
  simp [byteAt, List.getD, List.getElem?_append_right h]

theorem byteAt_drop (l : List Byte) (k i : Nat) : byteAt (l.drop k) i = byteAt l (k + i) := by
  simp [byteAt, List.getD]

theorem rd16le_drop (l : List Byte) (k i : Nat) : rd16le (l.drop k) i = rd16le l (k + i) := by
  simp only [rd16le, byteAt_drop]; rfl

@[simp] theorem crcFrom_nil (poly c0 : Half) : crcFrom poly c0 [] = c0 := rfl

@[simp] theorem crcFrom_cons (poly c0 : Half) (b : Byte) (l : List Byte) :
    crcFrom poly c0 (b :: l) = crcFrom poly (crcByte poly c0 b) l := rfl

/-! ## The scanner's rows (44_scanner.md R233) -/

/-- DONE is final. -/
theorem scanTicks_of_done (c : Config) (w : List Byte) (k : Nat) {r : ScanRun} (h : r.phase = .done) :
    scanTicks c w k r = r := by
  induction k with
  | zero => rfl
  | succ k ih =>
    have : scanTick c w r = r := by simp [scanTick, h]
    simp [scanTicks, this, ih]

theorem scanTicks_add (c : Config) (w : List Byte) (j k : Nat) (r : ScanRun) :
    scanTicks c w (j + k) r = scanTicks c w k (scanTicks c w j r) := by
  induction j generalizing r with
  | zero => simp [scanTicks]
  | succ j ih => rw [Nat.succ_add]; simp only [scanTicks]; exact ih _

/-- Everything one row can do: R233's table, row for row. -/
theorem scanTick_cases (c : Config) (w : List Byte) (r : ScanRun) :
    (r.phase = .search ∧ w.length < r.cursor + 2 ∧
      scanTick c w r = { r with stop := .noPreamble, phase := .done }) ∨
    (r.phase = .search ∧ r.cursor + 2 ≤ w.length ∧ preambleAt c w r.cursor = true ∧
      scanTick c w r = { r with phase := .candidate }) ∨
    (r.phase = .search ∧ r.cursor + 2 ≤ w.length ∧ preambleAt c w r.cursor = false ∧
      scanTick c w r = { r with cursor := r.cursor + 1 }) ∨
    (r.phase = .candidate ∧ w.length - r.cursor < 10 ∧
      scanTick c w r = { r with stop := .tooShort, phase := .done }) ∨
    (r.phase = .candidate ∧ 10 ≤ w.length - r.cursor ∧ ∃ f, decodeFrame c (w.drop r.cursor) = .ok f ∧
      scanTick c w r = { r with
        count := r.count + 1, cursor := r.cursor + f.total, hits := r.hits ++ [(r.cursor, f)], phase := .search }) ∨
    (r.phase = .candidate ∧ 10 ≤ w.length - r.cursor ∧ decodeFrame c (w.drop r.cursor) = .error .incompleteFrame ∧
      scanTick c w r = { r with stop := .incomplete, phase := .done }) ∨
    (r.phase = .candidate ∧ 10 ≤ w.length - r.cursor ∧ (∃ k, k ≠ .incompleteFrame ∧
      decodeFrame c (w.drop r.cursor) = .error k) ∧
      scanTick c w r = { r with cursor := r.cursor + 1, phase := .search }) ∨
    (r.phase = .done ∧ scanTick c w r = r) := by
  cases hp : r.phase with
  | search =>
    simp only [scanTick, hp]
    split
    · exact .inl ⟨trivial, by omega, rfl⟩
    · split
      · exact .inr (.inl ⟨trivial, by omega, ‹_›, rfl⟩)
      · exact .inr (.inr (.inl ⟨trivial, by omega, by simpa using ‹¬ preambleAt c w r.cursor = true›, rfl⟩))
  | candidate =>
    simp only [scanTick, hp]
    split
    · exact .inr (.inr (.inr (.inl ⟨trivial, ‹_›, rfl⟩)))
    · have h10 : 10 ≤ w.length - r.cursor := by omega
      split
      · exact .inr (.inr (.inr (.inr (.inl ⟨trivial, h10, _, ‹_›, rfl⟩))))
      · exact .inr (.inr (.inr (.inr (.inr (.inl ⟨trivial, h10, ‹_›, rfl⟩)))))
      · rename_i k hk hd
        exact .inr (.inr (.inr (.inr (.inr (.inr (.inl ⟨trivial, h10, ⟨k, hk, hd⟩, rfl⟩))))))
  | done => exact .inr (.inr (.inr (.inr (.inr (.inr (.inr ⟨rfl, by simp [scanTick, hp]⟩))))))

end Sys2Proof.Machine
end

