-- ==== Sys2Proof/Laws/PerInstr.lean ====
section
/-! SUPPORT. Statements made per command. FitsRow: the encoding of a command selects that command's row of the opcode
map (30_encoding.md R97), whatever its operands. -/

namespace Sys2Proof.Laws.FitsRow

/-- The `W0` of the command selects its own row. -/
def Statement (i : Instr) : Prop := selectOp (encode i).w0 = some i.op

/-- The rows, on every `W0` an encoding can have. -/
theorem select_packW0 :
    (∀ ap, selectOp (packW0 0x01 ap false false) = some .crc16) ∧
    (∀ ap, selectOp (packW0 0x10 ap false false) = some .cbInit) ∧
    (∀ ap, selectOp (packW0 0x11 ap false false) = some .cbAppend) ∧
    (∀ ap, selectOp (packW0 0x12 ap false false) = some .cbConsume) ∧
    (∀ ap, selectOp (packW0 0x20 ap false false) = some .encInit) ∧
    (∀ ap, selectOp (packW0 0x21 ap false false) = some .encBuild) ∧
    selectOp (packW0 0x22 false false false) = some .frameSize ∧
    selectOp (packW0 0x23 false false false) = some .encSetCounter ∧
    (∀ ap src, selectOp (packW0 0x30 ap src false) = some .decode) ∧
    (∀ ap src sink, selectOp (packW0 0x40 ap src sink) = some .scan) ∧
    selectOp (packW0 0x50 false false false) = some .rdReg := by decide

theorem crc16 (ref : Ref) (n : Word) : Statement (.crc16 ref n) := select_packW0.1 _
theorem cbInit (ref : Ref) (n : Word) : Statement (.cbInit ref n) := select_packW0.2.1 _
theorem cbAppend (ref : Ref) (n : Word) : Statement (.cbAppend ref n) := select_packW0.2.2.1 _
theorem cbConsume (ref : Ref) (n : Word) : Statement (.cbConsume ref n) := select_packW0.2.2.2.1 _
theorem encInit (ref : Ref) (n : Word) : Statement (.encInit ref n) := select_packW0.2.2.2.2.1 _
theorem encBuild (ref : Ref) (n : Word) : Statement (.encBuild ref n) := select_packW0.2.2.2.2.2.1 _
theorem frameSize (n : Word) : Statement (.frameSize n) := select_packW0.2.2.2.2.2.2.1
theorem encSetCounter (n : Word) : Statement (.encSetCounter n) := select_packW0.2.2.2.2.2.2.2.1
theorem decode (w : WindowOp) : Statement (.decode w) := by
  cases w with
  | lin ref n => exact select_packW0.2.2.2.2.2.2.2.2.1 _ false
  | cb => exact select_packW0.2.2.2.2.2.2.2.2.1 false true
theorem scan (w : WindowOp) (sink : Bool) : Statement (.scan w sink) := by
  cases w with
  | lin ref n => exact select_packW0.2.2.2.2.2.2.2.2.2.1 _ false sink
  | cb => exact select_packW0.2.2.2.2.2.2.2.2.2.1 false true sink
theorem rdReg (n : Word) : Statement (.rdReg n) := select_packW0.2.2.2.2.2.2.2.2.2.2

end Sys2Proof.Laws.FitsRow
end

