-- ==== Sys2Proof/Tests/Slice0.lean ====
section
/-! SUPPORT. Own tests. Expected values are the spec's: the field table of 30_encoding.md, the table listing of 40_crc.md
R126, and the vectors of 95_test_vectors.md, named V<n> and P<n> where they are used. After them, one witness for every
statement that has hypotheses. -/

/- One theorem after the other: checked in parallel, this many evaluations ask for more threads than the check's memory
limit has stacks for. -/
set_option Elab.async false

namespace Sys2Proof.Tests

open Sys2Proof.Machine

/-! ## Well-formedness -/

theorem test_wf_refuses_an_unlisted_register : (Instr.rdReg 0x06).wf = false := by decide
theorem test_wf_accepts_the_last_register : (Instr.rdReg 0x1A).wf = true := by decide

/-! ## Words written out from the field table of R95 and the opcode map of R97 -/

theorem test_decode_crc16 : decode ⟨0x00000101, 0x00005000, 5⟩ = .ok (.crc16 (some 0x5000) 5) := by decide
theorem test_decode_cbInit : decode ⟨0x00000110, 0x00001000, 8⟩ = .ok (.cbInit (some 0x1000) 8) := by decide
theorem test_decode_cbAppend : decode ⟨0x00000111, 0x00002000, 5⟩ = .ok (.cbAppend (some 0x2000) 5) := by decide
theorem test_decode_cbConsume : decode ⟨0x00000112, 0x00003000, 6⟩ = .ok (.cbConsume (some 0x3000) 6) := by decide
theorem test_decode_encInit : decode ⟨0x00000120, 0x00004000, 0x40⟩ = .ok (.encInit (some 0x4000) 64) := by decide
theorem test_decode_encBuild : decode ⟨0x00000121, 0x00005000, 5⟩ = .ok (.encBuild (some 0x5000) 5) := by decide
theorem test_decode_frameSize : decode ⟨0x00000022, 0, 5⟩ = .ok (.frameSize 5) := by decide
theorem test_decode_encSetCounter : decode ⟨0x00000023, 0, 0x1FFFE⟩ = .ok (.encSetCounter 0x1FFFE) := by decide
theorem test_decode_decode : decode ⟨0x00000130, 0x00004000, 15⟩ = .ok (.decode (.lin (some 0x4000) 15)) := by decide
theorem test_decode_decode_cb : decode ⟨0x00000330, 0x00004000, 15⟩ = .ok (.decode .cb) := by decide
theorem test_decode_scan : decode ⟨0x00000540, 0x00002000, 21⟩ = .ok (.scan (.lin (some 0x2000) 21) true) := by decide
theorem test_decode_scan_nosink : decode ⟨0x00000240, 0, 0⟩ = .ok (.scan .cb false) := by decide
theorem test_decode_rdReg : decode ⟨0x00000050, 0, 0x12⟩ = .ok (.rdReg 0x12) := by decide
/-- The illegal descriptors of V61. -/
theorem test_illegal_descriptors :
    decode ⟨0x00000000, 0, 0⟩ = .error .unassignedOpcode ∧
    decode ⟨0x00000002, 0, 0⟩ = .error .unassignedOpcode ∧
    decode ⟨0x00000122, 0, 5⟩ = .error .unusedFlagSet ∧
    decode ⟨0x00000301, 0x5000, 5⟩ = .error .unusedFlagSet ∧
    decode ⟨0x00000530, 0x4000, 15⟩ = .error .unusedFlagSet ∧
    decode ⟨0x00000801, 0x5000, 5⟩ = .error .reservedBitSet ∧
    decode ⟨0x80000040, 0, 0⟩ = .error .reservedBitSet ∧
    decode ⟨0x00000050, 0, 0x06⟩ = .error .noSuchRegister ∧
    decode ⟨0x00000050, 0, 0x1B⟩ = .error .noSuchRegister := by decide
/-- The listing example of R102. -/
theorem test_encode_scan :
    encode (.scan (.lin (some 0x2000) 21) true) = ⟨0x00000540, 0x00002000, 0x00000015⟩ ∧
    (Instr.scan (.lin (some 0x2000) 21) true).listing = "SCAN lin @8192, 21, sink" := by decide +kernel
theorem test_decodeTableWord : decodeTableWord 32 0x101 = some (.crc16 (some 0) 0) ∧ decodeTableWord 32 0 = none ∧
    decodeTableWord 96 0x000000050000500000000101 = some (.crc16 (some 0x5000) 5) := by decide
theorem test_first_command_after_reset : step (State.reset.withFetchWord 32 0x22) =
    .next (State.reset.setResponse ⟨0, 10, 0, 0, 0⟩) := rfl

/-! ## Checksum engine -/

/-- The listing of R126. -/
theorem test_crcTable_listing : ((List.range 256).map fun i => (crcTable 0x1021 (BitVec.ofNat 8 i)).toNat) =
  [0x0000, 0x1021, 0x2042, 0x3063, 0x4084, 0x50A5, 0x60C6, 0x70E7,
   0x8108, 0x9129, 0xA14A, 0xB16B, 0xC18C, 0xD1AD, 0xE1CE, 0xF1EF,
   0x1231, 0x0210, 0x3273, 0x2252, 0x52B5, 0x4294, 0x72F7, 0x62D6,
   0x9339, 0x8318, 0xB37B, 0xA35A, 0xD3BD, 0xC39C, 0xF3FF, 0xE3DE] ++
  [0x2462, 0x3443, 0x0420, 0x1401, 0x64E6, 0x74C7, 0x44A4, 0x5485,
   0xA56A, 0xB54B, 0x8528, 0x9509, 0xE5EE, 0xF5CF, 0xC5AC, 0xD58D,
   0x3653, 0x2672, 0x1611, 0x0630, 0x76D7, 0x66F6, 0x5695, 0x46B4,
   0xB75B, 0xA77A, 0x9719, 0x8738, 0xF7DF, 0xE7FE, 0xD79D, 0xC7BC] ++
  [0x48C4, 0x58E5, 0x6886, 0x78A7, 0x0840, 0x1861, 0x2802, 0x3823,
   0xC9CC, 0xD9ED, 0xE98E, 0xF9AF, 0x8948, 0x9969, 0xA90A, 0xB92B,
   0x5AF5, 0x4AD4, 0x7AB7, 0x6A96, 0x1A71, 0x0A50, 0x3A33, 0x2A12,
   0xDBFD, 0xCBDC, 0xFBBF, 0xEB9E, 0x9B79, 0x8B58, 0xBB3B, 0xAB1A] ++
  [0x6CA6, 0x7C87, 0x4CE4, 0x5CC5, 0x2C22, 0x3C03, 0x0C60, 0x1C41,
   0xEDAE, 0xFD8F, 0xCDEC, 0xDDCD, 0xAD2A, 0xBD0B, 0x8D68, 0x9D49,
   0x7E97, 0x6EB6, 0x5ED5, 0x4EF4, 0x3E13, 0x2E32, 0x1E51, 0x0E70,
   0xFF9F, 0xEFBE, 0xDFDD, 0xCFFC, 0xBF1B, 0xAF3A, 0x9F59, 0x8F78] ++
  [0x9188, 0x81A9, 0xB1CA, 0xA1EB, 0xD10C, 0xC12D, 0xF14E, 0xE16F,
   0x1080, 0x00A1, 0x30C2, 0x20E3, 0x5004, 0x4025, 0x7046, 0x6067,
   0x83B9, 0x9398, 0xA3FB, 0xB3DA, 0xC33D, 0xD31C, 0xE37F, 0xF35E,
   0x02B1, 0x1290, 0x22F3, 0x32D2, 0x4235, 0x5214, 0x6277, 0x7256] ++
  [0xB5EA, 0xA5CB, 0x95A8, 0x8589, 0xF56E, 0xE54F, 0xD52C, 0xC50D,
   0x34E2, 0x24C3, 0x14A0, 0x0481, 0x7466, 0x6447, 0x5424, 0x4405,
   0xA7DB, 0xB7FA, 0x8799, 0x97B8, 0xE75F, 0xF77E, 0xC71D, 0xD73C,
   0x26D3, 0x36F2, 0x0691, 0x16B0, 0x6657, 0x7676, 0x4615, 0x5634] ++
  [0xD94C, 0xC96D, 0xF90E, 0xE92F, 0x99C8, 0x89E9, 0xB98A, 0xA9AB,
   0x5844, 0x4865, 0x7806, 0x6827, 0x18C0, 0x08E1, 0x3882, 0x28A3,
   0xCB7D, 0xDB5C, 0xEB3F, 0xFB1E, 0x8BF9, 0x9BD8, 0xABBB, 0xBB9A,
   0x4A75, 0x5A54, 0x6A37, 0x7A16, 0x0AF1, 0x1AD0, 0x2AB3, 0x3A92] ++
  [0xFD2E, 0xED0F, 0xDD6C, 0xCD4D, 0xBDAA, 0xAD8B, 0x9DE8, 0x8DC9,
   0x7C26, 0x6C07, 0x5C64, 0x4C45, 0x3CA2, 0x2C83, 0x1CE0, 0x0CC1,
   0xEF1F, 0xFF3E, 0xCF5D, 0xDF7C, 0xAF9B, 0xBFBA, 0x8FD9, 0x9FF8,
   0x6E17, 0x7E36, 0x4E55, 0x5E74, 0x2E93, 0x3EB2, 0x0ED1, 0x1EF0] := by decide +kernel
/-- Six rows of V1. -/
theorem test_crc16_vectors :
    crc16 Config.defaults [] = 0xFFFF ∧ crc16 Config.defaults [0x00] = 0xE1F0 ∧
    crc16 Config.defaults [0xFF, 0xFF] = 0x0000 ∧ crc16 Config.defaults [0xFA, 0xCE] = 0xD987 ∧
    crc16 Config.defaults [0x48, 0x65, 0x6C, 0x6C, 0x6F] = 0xDADA ∧
    crc16 Config.defaults [0xFA, 0xCE, 0xFE, 0xFF, 0x01, 0x00] = 0x24FB := by decide +kernel

/-! ## States -/

/-- A state whose memory holds the bytes at the address. -/
def put (a : Nat) (bs : List Byte) (s : State) : State := s.setMem (s.mem.writeAt (span a) bs)

/-- The frames FB and FC of 95_test_vectors.md. -/
def fb : List Byte := [0xFA, 0xCE, 0x00, 0x00, 0x05, 0x00, 0x4B, 0x1A, 0x48, 0x65, 0x6C, 0x6C, 0x6F, 0xDA, 0xDA]
def fc : List Byte := [0xFA, 0xCE, 0x01, 0x00, 0x03, 0x00, 0x59, 0xC6, 0x01, 0x02, 0x03, 0xAD, 0xAD]

/-- V20 after row 5: storage 0x1000..0x1007, two occupied bytes, and six bytes to append at 0x2100. -/
def ringState : State :=
  ((put 0x2100 [0xA1, 0xA2, 0xA3, 0xA4, 0xA5, 0xA6] (put 0x1000 [0x11, 0x22, 0x33, 0x44, 0x55, 0, 0, 0] State.reset)).setCb
    { valid := true, base := 0x1000, cap := 8, app := 5, con := 3, free := 6 })

/-- V20 after row 6: the same buffer, full. -/
def fullState : State :=
  (put 0x1000 [0xA4, 0xA5, 0xA6, 0x44, 0x55, 0xA1, 0xA2, 0xA3] State.reset).setCb
    { valid := true, base := 0x1000, cap := 8, app := 3, con := 3, free := 0 }

/-- P1 before step 3: encoder at 0x4000, "Hello" at 0x5000. -/
def encState : State :=
  (put 0x5000 [0x48, 0x65, 0x6C, 0x6C, 0x6F] State.reset).setEnc { valid := true, base := 0x4000, cap := 64, counter := 0 }

/-- P2 before step 5: the frame FB in a 32-byte buffer. -/
def streamState : State :=
  (put 0x1000 fb State.reset).setCb { valid := true, base := 0x1000, cap := 32, app := 15, con := 0, free := 17 }

/-- The next state of an outcome, if it has one. -/
def after (r : Result) : Option State := match r with
  | .next t => some t
  | .fault _ => none
  | .refused _ => none

/-- Status and first value of the response a command is answered with. -/
def answered (i : Instr) (s : State) : Option (Nat × Nat) :=
  (after (exec i s)).bind fun t => t.response.map fun r => (r.status.toNat, r.r0.toNat)

/-- The bytes a command leaves at an address. -/
def bytesAfter (i : Instr) (s : State) (a n : Nat) : Option (List Byte) :=
  (after (exec i s)).map fun t => t.mem.readAt (span a) n

/-! ## Commands -/

/-- V5. -/
theorem test_crc16 : answered (.crc16 (some 0x5000) 5) encState = some (0, 0xDADA) ∧
    answered (.crc16 none 0) encState = some (1, 0) := by decide +kernel
/-- V20 row 15: re-init on a one-byte region zeroes that byte only. -/
theorem test_cbInit : bytesAfter (.cbInit (some 0x1004) 1) fullState 0x1000 8 =
    some [0xA4, 0xA5, 0xA6, 0x44, 0x00, 0xA1, 0xA2, 0xA3] := by decide +kernel
/-- V20 row 6: an append that wraps and fills the buffer. -/
theorem test_cbAppend : bytesAfter (.cbAppend (some 0x2100) 6) ringState 0x1000 8 =
      some [0xA4, 0xA5, 0xA6, 0x44, 0x55, 0xA1, 0xA2, 0xA3] ∧
    (after (exec (.cbAppend (some 0x2100) 6) ringState)).map State.cb = some fullState.cb := by decide +kernel
/-- V20 rows 7 to 9: full; a zero count; an absent reference beats a zero count. -/
theorem test_cbAppend_errors : answered (.cbAppend (some 0x2100) 1) fullState = some (3, 0) ∧
    answered (.cbAppend (some 0x2100) 0) fullState = some (0, 0) ∧
    answered (.cbAppend none 0) fullState = some (1, 0) := by decide +kernel
/-- V20 row 12: all eight bytes in FIFO order across the wrap; the buffer is empty. -/
theorem test_cbConsume : bytesAfter (.cbConsume (some 0x3010) 8) fullState 0x3010 8 =
      some [0x44, 0x55, 0xA1, 0xA2, 0xA3, 0xA4, 0xA5, 0xA6] ∧
    (after (exec (.cbConsume (some 0x3010) 8) fullState)).map State.cb =
      some { valid := true, base := 0x1000, cap := 8, app := 3, con := 3, free := 8 } := by decide +kernel
/-- V26. -/
theorem test_encInit : answered (.encInit none 64) State.reset = some (1, 0) ∧
    answered (.encInit (some 0x4000) 9) State.reset = some (2, 0) ∧
    answered (.encInit (some 0x4000) 10) State.reset = some (0, 0) := by decide +kernel
/-- The example of R172. -/
theorem test_encBuild : bytesAfter (.encBuild (some 0x5000) 5) encState 0x4000 15 = some fb ∧
    answered (.encBuild (some 0x5000) 5) encState = some (0, 15) ∧
    (after (exec (.encBuild (some 0x5000) 5) encState)).map (fun t => t.enc.counter) = some 1 := by decide +kernel
/-- V27: the order of the checks, with a capacity of 12. -/
theorem test_encBuild_errors :
    answered (.encBuild (some 0x5000) 65526) (encState.setEnc ⟨true, 0x4000, 12, 0⟩) = some (4, 0) ∧
    answered (.encBuild (some 0x5000) 3) (encState.setEnc ⟨true, 0x4000, 12, 0⟩) = some (2, 0) ∧
    answered (.encBuild none 0) (encState.setEnc ⟨true, 0x4000, 12, 0⟩) = some (1, 0) := by decide +kernel
/-- V25. -/
theorem test_frameSize : answered (.frameSize 65525) State.reset = some (0, 65535) ∧
    answered (.frameSize 0xFFFFFFFF) State.reset = some (0, 9) := by decide +kernel
/-- V29b. -/
theorem test_encSetCounter : (after (exec (.encSetCounter 0x1FFFE) State.reset)).map (fun t => t.enc.counter) =
    some 0xFFFE := by decide +kernel
/-- V30, frame FB. -/
theorem test_decode : (after (exec (.decode (.lin (some 0x4000) 15)) (put 0x4000 fb State.reset))).map State.response =
    some (some ⟨0, 15, 0x00004008, 0x00050000, 0xDADA1A4B⟩) := by decide +kernel
/-- V31: one window for each error. -/
theorem test_decode_errors :
    answered (.decode (.lin (some 0x4000) 9)) (put 0x4000 fb State.reset) = some (5, 0) ∧
    answered (.decode (.lin (some 0x4000) 15)) (put 0x4001 [0x31] (put 0x4000 fb State.reset)) = some (6, 0) ∧
    answered (.decode (.lin (some 0x4000) 15)) (put 0x4004 [0x04] (put 0x4000 fb State.reset)) = some (7, 0) ∧
    answered (.decode (.lin (some 0x4000) 14)) (put 0x4000 fb State.reset) = some (5, 0) ∧
    answered (.decode (.lin (some 0x4000) 15)) (put 0x4008 [0xB7] (put 0x4000 fb State.reset)) = some (8, 0) := by
  decide +kernel
/-- V57: one junk byte, FB, five bytes of a next frame. -/
theorem test_scan :
    (after (exec (.scan (.lin (some 0x2000) 21) true)
      (put 0x2000 ([0x00] ++ fb ++ [0xFA, 0xCE, 0x00, 0x00, 0x00]) State.reset))).map (fun t => (t.sc, t.sink)) =
    some (⟨16, 1, .tooShort⟩, [⟨15, 0x2009, 0, 5, 0x1A4B, 0xDADA, .lin⟩]) := by decide +kernel
/-- V54: a truncated frame followed by a whole one; and V20 row 11, no preamble in a wrapped buffer. -/
theorem test_scan_resynchronises :
    ((scanStream Config.defaults (fb.take 12 ++ fc)).cursor, (scanStream Config.defaults (fb.take 12 ++ fc)).stop,
      (scanStream Config.defaults (fb.take 12 ++ fc)).hits.map Prod.fst) = (25, .noPreamble, [12]) ∧
    (after (exec (.scan .cb true) fullState)).map State.sc = some ⟨7, 0, .noPreamble⟩ := by decide +kernel
/-- V60, and the reserved numbers of V61. -/
theorem test_rdReg : answered (.rdReg 0x19) State.reset = some (0, 0x0000CEFA) ∧
    answered (.rdReg 0x1A) State.reset = some (0, 0xFFFF1021) ∧ answered (.rdReg 0x18) State.reset = some (0, 0xFFF5) ∧
    answered (.rdReg 0x0A) encState = some (0, 64) ∧ answered (.rdReg 0x06) State.reset = some (0xFF, 0) := by
  decide +kernel
/-- The two stops of 93_implementation_defined.md U1 and U2. -/
theorem test_refusals :
    exec (.crc16 (some 0xFFFFFFFF) 2) State.reset = .refused .inadmissibleRegion ∧
    exec (.cbAppend (some 0x0FFF) 2) ringState = .refused .overlappingRegions := ⟨rfl, rfl⟩
/-- 70_reset_and_hazards.md R320, R321: reset between commands clears the registers and leaves `MEM`. -/
theorem test_reset_input : step (encState.setInputs [.reset]) =
    .next (put 0x5000 [0x48, 0x65, 0x6C, 0x6C, 0x6F] State.reset) := rfl

/-! ## Witnesses: the hypotheses of each statement are met together -/

theorem witness_OpcodeRowsAreDisjoint :
    ∃ r ∈ opRows, r.matches 0x00000740 = true := ⟨⟨.scan, 0x00000040, 0xFFFFF8FF⟩, by decide⟩
theorem witness_DecodeOfEncode : (Instr.rdReg 0x1A).wf = true ∧ (Instr.crc16 none 0xFFFFFFFF).wf = true := by decide
theorem witness_DecodingDropsOnlyIgnoredFields :
    (decode ⟨0x121, 0xFFFFFFFF, 5⟩ = .ok (.encBuild (some 0xFFFFFFFF) 5) ∧
      (⟨0x121, 0xFFFFFFFF, 5⟩ : Descriptor).src = false ∧ (⟨0x121, 0xFFFFFFFF, 5⟩ : Descriptor).ap = true) ∧
    (decode ⟨0x740, 1, 2⟩ = .ok (.scan .cb true) ∧ (⟨0x740, 1, 2⟩ : Descriptor).src = true) := by decide
/-- Each way to be illegal, at a boundary, and a legal descriptor. -/
theorem witness_IllegalDescriptorsAnswerFF :
    illegalDescriptor ⟨0x000, 0, 0⟩ ∧ illegalDescriptor ⟨0x840, 0, 0⟩ ∧ illegalDescriptor ⟨0x150, 0, 0⟩ ∧
    illegalDescriptor ⟨0x201, 0, 0⟩ ∧ illegalDescriptor ⟨0x430, 0, 0⟩ ∧ illegalDescriptor ⟨0x050, 0, 0x1B⟩ ∧
    ¬ illegalDescriptor ⟨0x740, 0, 0⟩ ∧ ¬ illegalDescriptor ⟨0x050, 0, 0x1A⟩ := by
  refine ⟨?_, ?_, ?_, ?_, ?_, ?_, ?_, ?_⟩ <;> decide +kernel
theorem witness_StepRunsTheDecodedCommand :
    (State.reset.setInputs [.command ⟨0x22, 0, 5⟩, .reset]).inputs = [.command ⟨0x22, 0, 5⟩, .reset] ∧
    decode ⟨0x22, 0, 5⟩ = .ok (.frameSize 5) ∧ decodeTableWord 32 0x22 = some (.frameSize 0) := by decide
theorem witness_IdleResetAndHostStore : State.reset.inputs = [] ∧ (fullState.setInputs [.reset]).inputs = [.reset] ∧
    (State.reset.setInputs [.store 0xFFFFFFFF 0x5A]).inputs = [.store 0xFFFFFFFF 0x5A] := by decide
theorem witness_ResetStateValues :
    Reg.scStop ≠ .cfgMaxPayload ∧ Reg.scStop ≠ .cfgPreamble ∧ Reg.scStop ≠ .cfgCrc := by decide
/-- A full buffer, an attached encoder, and a command that changes registers and memory. -/
theorem witness_StepKeepsTheInvariant :
    ((fullState.setEnc encState.enc).setInputs [.command ⟨0x112, 0x3000, 8⟩]).Inv ∧
    (after (step ((fullState.setEnc encState.enc).setInputs [.command ⟨0x112, 0x3000, 8⟩]))).isSome = true := by
  decide +kernel
theorem witness_StepNeverChangesTheParameters : (after (step (fullState.setInputs [.reset]))).isSome = true := by decide
theorem witness_ErrorsAtTheirExactConditions :
    Fails (.encBuild (some 0x5000) 5) State.reset .nullPointer ∧ Fails (.encInit (some 0) 9) State.reset .bufferTooSmall ∧
    Fails (.cbAppend (some 0x2100) 7) ringState .insufficientSpace ∧
    Fails (.encBuild (some 0x5000) 65526) encState .payloadTooLarge := ⟨rfl, rfl, rfl, rfl⟩
theorem witness_ErrorLeavesNoTrace :
    (after (exec (.cbAppend (some 0x2100) 7) ringState)).map State.succeeded = some false ∧
    (after (exec (.cbAppend (some 0x2100) 6) ringState)).map State.succeeded = some true := by decide +kernel
theorem witness_StopsExactlyOutsideTheSpec :
    leavesMemory (.encInit (some 0xFFFFFFF7) 10) State.reset ∧ copiesOntoItself (.cbConsume (some 0x1007) 2) ringState ∧
    ¬ leavesMemory (.encInit (some 0xFFFFFFF6) 10) State.reset ∧
    ¬ copiesOntoItself (.cbConsume (some 0x1008) 2) ringState := by
  unfold leavesMemory copiesOntoItself
  decide +kernel
theorem witness_Crc16Answers : Admissible 0xFFFFFFFF 1 ∧ Admissible 0xFFFFFFFF 0 := by decide
theorem witness_CrcDetectsEveryShortBurst :
    Config.defaults.crcPoly.getLsbD 0 = true ∧
    bitsOf [0x00, 0x80, 0x01] = List.replicate 8 false ++ ([true] ++ List.replicate 14 false ++ [true]) ++ [] ∧
    bitsOf [0x00, 0x00, 0x00] = List.replicate 8 false ++ List.replicate 16 false ++ [] ∧
    ([true] ++ List.replicate 14 false ++ [true]).length = (List.replicate 16 false).length ∧
    ([true] ++ List.replicate 14 false ++ [true]).length ≤ 16 ∧
    [true] ++ List.replicate 14 false ++ [true] ≠ List.replicate 16 false := by decide +kernel
theorem witness_CbInitAttachesZeroedStorage : (1 : Word) ≠ 0 ∧ Admissible 0xFFFFFFFF 1 ∧ Admissible 1 0xFFFFFFFF := by decide
/-- No storage; too many by one; exactly the free space, through the wrap. -/
theorem witness_CbAppendPutsBytesAtTheTail :
    State.reset.cb.inv ∧ State.reset.cb.valid = false ∧
    ringState.cb.inv ∧ ringState.cb.valid = true ∧ ringState.cb.free.toNat < (7 : Word).toNat ∧
    (6 : Word).toNat ≤ ringState.cb.free.toNat ∧ Admissible 0x2100 6 ∧
    ¬ Overlap (0x2100 : Word).toNat (6 : Word).toNat ringState.cb.base.toNat ringState.cb.cap.toNat := by decide +kernel
theorem witness_CbConsumeTakesBytesFromTheHead :
    State.reset.cb.inv ∧ State.reset.cb.valid = false ∧
    fullState.cb.inv ∧ fullState.cb.valid = true ∧
    fullState.cb.cap.toNat - fullState.cb.free.toNat < (9 : Word).toNat ∧
    (8 : Word).toNat ≤ fullState.cb.cap.toNat - fullState.cb.free.toNat ∧ Admissible 0xFFFFFFF8 8 ∧
    ¬ Overlap (0xFFFFFFF8 : Word).toNat (8 : Word).toNat fullState.cb.base.toNat fullState.cb.cap.toNat := by
  decide +kernel
theorem witness_WrappedCopyIsTwoMoves :
    ringState.cb.inv ∧ ringState.cb.valid = true ∧ (6 : Word).toNat ≤ ringState.cb.free.toNat ∧
    (2 : Word).toNat ≤ ringState.occupied := by decide +kernel
theorem witness_FullAndEmptyAreToldApart : fullState.cb.inv ∧ fullState.cb.valid = true ∧ fullState.cb.free = 0 := by
  decide +kernel
/-- Append through the wrap, consume, scan; and a run that starts with a CB_INIT. -/
theorem witness_BufferIsFirstInFirstOut :
    ringState.cb.inv ∧
    (fifoTrace [.cbAppend (some 0x2100) 6, .cbConsume (some 0x3000) 5, .scan .cb true] ringState).map
      (fun r => (r.1.length, r.2.1.length)) = some (6, 5) ∧
    ((after (exec (.cbInit (some 0x1000) 8) ringState)).bind
      (fifoTrace [.cbAppend (some 0x2100) 6, .cbConsume (some 0x3000) 5])).isSome = true ∧ (8 : Word) ≠ 0 := by
  decide +kernel
theorem witness_EncInitAttachesTheDestination :
    (9 : Word).toNat < 10 ∧ 10 ≤ (10 : Word).toNat ∧ Admissible 0xFFFFFFF6 10 := by decide
theorem witness_EncBuildWritesOneFrame :
    State.reset.enc.valid = false ∧ encState.enc.valid = true ∧ encState.cfg.maxPayload.toNat < (65526 : Word).toNat ∧
    (55 : Word).toNat ≤ encState.cfg.maxPayload.toNat ∧ encState.enc.cap.toNat < (55 : Word).toNat + 10 ∧
    (54 : Word).toNat + 10 ≤ encState.enc.cap.toNat ∧ Admissible 0x5000 54 ∧
    Admissible encState.enc.base encState.enc.cap ∧
    ¬ Overlap (0x5000 : Word).toNat (54 : Word).toNat encState.enc.base.toNat ((54 : Word).toNat + 10) := by
  decide +kernel
theorem witness_FrameSizeAddsTen : (65535 : Word).toNat ≤ 65535 := by decide
theorem witness_EncSetCounterPresetsTheCounter :
    (after (exec (.encInit (some 0x4000) 10) (encState.setEnc ⟨true, 0x4000, 64, 7⟩))).map State.succeeded = some true := by
  decide +kernel
/-- The run of P3: three frames from 65534. -/
theorem witness_CountersAreConsecutive :
    (counterTrace [.encBuild (some 0x5000) 1, .encBuild (some 0x5001) 1, .frameSize 3, .encBuild (some 0x5002) 1]
      (encState.setEnc ⟨true, 0x4000, 64, 65534⟩)).map Prod.fst = some [65534, 65535, 0] := by decide +kernel
theorem witness_FrameLayoutByOffset : ([0x41] : List Byte).length ≤ 65535 ∧ ([] : List Byte).length ≤ 65535 := by decide
theorem witness_EncodedFramesAreWellFormedAndValid : ([0x41] : List Byte).length ≤ Config.defaults.maxPayload.toNat := by
  decide
theorem witness_EmptyPayloadIsChecked :
    10 ≤ (frameBytes Config.defaults 5 []).length ∧
    byteAt (frameBytes Config.defaults 5 []) 0 = Config.defaults.preamble0 ∧
    byteAt (frameBytes Config.defaults 5 []) 1 = Config.defaults.preamble1 ∧
    crc16 Config.defaults ((frameBytes Config.defaults 5 []).take 6) = rd16le (frameBytes Config.defaults 5 []) 6 ∧
    rd16le (frameBytes Config.defaults 5 []) 4 = 0 ∧
    rd16le (frameBytes Config.defaults 5 []) 8 = Config.defaults.crcInit ∧
    rd16le ((frameBytes Config.defaults 5 []).set 9 0) 8 ≠ Config.defaults.crcInit := by decide +kernel
theorem witness_DecodeOfFrameBytes : (List.replicate 3 (0xFA : Byte)).length ≤ 65535 := by decide
theorem witness_DecoderLooksAtOneFrameOnly :
    (decodeFrame Config.defaults fb).toOption.map Frame.total = some 15 ∧ 15 ≤ (fb ++ fc).length ∧
    (fb ++ fc).take 15 = fb.take 15 ∧
    (fb ++ [0]).length = (fb ++ [1]).length ∧
    (fb ++ [0]).take ((rd16le (fb ++ [1]) 4).toNat + 10) = (fb ++ [1]).take ((rd16le (fb ++ [1]) 4).toNat + 10) ∧
    decodeFrame Config.defaults (fb.set 8 0) = .error .invalidPayloadCrc := by decide +kernel
theorem witness_DecodeAnswersTheCandidate :
    State.reset.cb.valid = false ∧ Admissible 0x1000 15 ∧
    (decodeFrame streamState.cfg (streamState.mem.readAt (span (0x1000 : Word).toNat) (15 : Word).toNat)).toOption.isSome = true ∧
    decodeFrame streamState.cfg (streamState.mem.readAt (span (0x1000 : Word).toNat) (14 : Word).toNat) =
      .error .incompleteFrame ∧
    streamState.cb.valid = true ∧ (decodeFrame streamState.cfg streamState.content).toOption.isSome = true ∧
    ringState.cb.valid = true ∧ decodeFrame ringState.cfg ringState.content = .error .incompleteFrame := by
  decide +kernel
theorem witness_BuiltFrameDecodesFromMemory :
    (after (exec (.encBuild (some 0x5000) 5) encState)).map State.succeeded = some true := by decide +kernel
theorem witness_ScanOfNothingIsSilent :
    (∃ n, WindowOp.lin none 15 = .lin none n) ∧ (WindowOp.cb = .cb ∧ State.reset.cb.valid = false) :=
  ⟨⟨15, rfl⟩, rfl, rfl⟩
theorem witness_ScanDeliversWhatItFinds :
    Admissible 0x1000 15 ∧ streamState.cb.valid = true ∧
    (scanStream streamState.cfg streamState.content).hits.map Prod.fst = [0] := by decide +kernel
theorem witness_ScannerAlwaysFinishes :
    (scanTick Config.defaults fb ⟨.candidate, 0, 0, .none, []⟩).phase = .search ∧
    (scanTick Config.defaults (fb.set 8 0) ⟨.candidate, 0, 0, .none, []⟩).phase = .search := by decide +kernel
theorem witness_ScannerMeetsThreeErrorsOnly :
    preambleAt Config.defaults (fb.set 8 0) 0 = true ∧ 10 ≤ (fb.set 8 0).length - 0 ∧
    decodeFrame Config.defaults ((fb.set 8 0).drop 0) = .error .invalidPayloadCrc ∧
    decodeFrame Config.defaults ((fb.set 4 0).drop 0) = .error .invalidHeaderCrc ∧
    decodeFrame Config.defaults ((fb.take 14).drop 0) = .error .incompleteFrame := by decide +kernel
theorem witness_IncompleteCandidateEndsTheScan :
    (∀ q < 1, preambleAt Config.defaults ([0x00] ++ fb.take 10) q = false) ∧
    preambleAt Config.defaults ([0x00] ++ fb.take 10) 1 = true ∧ 10 ≤ ([0x00] ++ fb.take 10).length - 1 ∧
    decodeFrame Config.defaults (([0x00] ++ fb.take 10).drop 1) = .error .incompleteFrame := by decide +kernel
theorem witness_FailedCandidateIsSkippedByOneByte :
    (∀ q < 1, preambleAt Config.defaults ([0x00] ++ fb.set 4 0 ++ fc) q = false) ∧
    preambleAt Config.defaults ([0x00] ++ fb.set 4 0 ++ fc) 1 = true ∧
    10 ≤ ([0x00] ++ fb.set 4 0 ++ fc).length - 1 ∧
    decodeFrame Config.defaults (([0x00] ++ fb.set 4 0 ++ fc).drop 1) = .error .invalidHeaderCrc ∧
    ErrorKind.invalidHeaderCrc ≠ .incompleteFrame := by decide +kernel
theorem witness_CleanStreamIsFoundWhole :
    ∀ f ∈ ([(0, [0xFA, 0xCE]), (65535, [])] : List (Half × List Byte)), f.2.length ≤ 65535 := by decide
theorem witness_LeadingJunkIsSkipped :
    ∀ q < ([0x00, 0xFA] : List Byte).length, preambleAt Config.defaults ([0x00, 0xFA] ++ fb) q = false := by
  decide +kernel
/-- Two frames, the last payload byte of the first flipped. -/
theorem witness_OneFlippedByteLosesOneFrame :
    Config.defaults.crcPoly.getLsbD 0 = true ∧
    (∀ f ∈ ([(3, [0x41]), (5, [])] : List (Half × List Byte)), f.2.length ≤ 65535) ∧
    8 < (cleanStream Config.defaults [(3, [0x41]), (5, [])]).length ∧
    (∀ q, q + 10 ≤ 21 →
      preambleAt Config.defaults ((cleanStream Config.defaults [(3, [0x41]), (5, [])]).set 8 0xBE) q = true →
      crc16 Config.defaults ((((cleanStream Config.defaults [(3, [0x41]), (5, [])]).set 8 0xBE).drop q).take 6) =
        rd16le (((cleanStream Config.defaults [(3, [0x41]), (5, [])]).set 8 0xBE).drop q) 6 →
      q ∈ (cleanHits Config.defaults 0 [(3, [0x41]), (5, [])]).map Prod.fst) ∧
    (cleanStream Config.defaults [(3, [0x41]), (5, [])]).length = 21 ∧
    ~~~ byteAt (cleanStream Config.defaults [(3, [0x41]), (5, [])]) 8 = 0xBE := by
  have h : ∀ q < 12,
      preambleAt Config.defaults ((cleanStream Config.defaults [(3, [0x41]), (5, [])]).set 8 0xBE) q = true →
      crc16 Config.defaults ((((cleanStream Config.defaults [(3, [0x41]), (5, [])]).set 8 0xBE).drop q).take 6) =
        rd16le (((cleanStream Config.defaults [(3, [0x41]), (5, [])]).set 8 0xBE).drop q) 6 →
      q ∈ (cleanHits Config.defaults 0 [(3, [0x41]), (5, [])]).map Prod.fst := by decide +kernel
  refine ⟨by decide, by decide, by decide +kernel, fun q hq => h q (by omega), by decide +kernel, by decide +kernel⟩
theorem witness_TruncatedFrameYieldsNothing :
    ([0x41] : List Byte).length ≤ 65535 ∧ ∀ j ∈ [1, 2, 9, 10], 1 ≤ j ∧ j < ([0x41] : List Byte).length + 10 := by decide
theorem witness_RdRegAnswersTheRegister : (after (exec (.rdReg 0x1A) State.reset)).isSome = true ∧ (0x1B : Word).toNat ∉
    [0x00, 0x01, 0x02, 0x03, 0x04, 0x05, 0x08, 0x09, 0x0A, 0x0B, 0x10, 0x11, 0x12, 0x18, 0x19, 0x1A] := by decide
/-- A storing command, and one that stores nothing. -/
theorem witness_RegistersChangeOnlyByTheirUnit :
    (after (exec (.encBuild (some 0x5000) 5) encState)).isSome = true ∧
    (∀ ref n, Instr.encBuild (some 0x5000) 5 ≠ .cbInit ref n) ∧ (∀ w k, Instr.encBuild (some 0x5000) 5 ≠ .scan w k) ∧
    (after (exec (.decode .cb) streamState)).isSome = true :=
  ⟨by decide +kernel, nofun, nofun, by decide +kernel⟩
theorem witness_WritesStayInTheFootprint :
    (after (exec (.cbAppend (some 0x2100) 5) ringState)).map State.succeeded = some true ∧
    ¬ writesByte (.cbAppend (some 0x2100) 5) ringState 0x1002 ∧
    (after (exec (.cbAppend (some 0x2100) 7) ringState)).map State.succeeded = some false := by
  refine ⟨by decide +kernel, ?_, by decide +kernel⟩
  show ¬ ∃ j < 5, 0x1002 = ringState.tailSlot j
  decide +kernel
/-- Two states that differ in a byte DECODE does not read. -/
theorem witness_ReadsStayInTheFootprint :
    streamState.cb = (put 0x6000 [1] streamState).cb ∧ streamState.enc = (put 0x6000 [1] streamState).enc ∧
    streamState.sc = (put 0x6000 [1] streamState).sc ∧ streamState.cfg = (put 0x6000 [1] streamState).cfg ∧
    streamState.mem ≠ (put 0x6000 [1] streamState).mem ∧
    (∀ x, readsByte (.decode (.lin (some 0x1000) 15)) streamState x →
      streamState.mem.read x = (put 0x6000 [1] streamState).mem.read x) ∧
    (after (exec (.decode (.lin (some 0x1000) 15)) streamState)).isSome = true := by
  refine ⟨rfl, rfl, rfl, rfl, by decide +kernel, fun x hx => ?_, by decide +kernel⟩
  have hx : x < 0x1000 + 15 := hx.2
  exact (Memory.read_writeAt_of_forall_ne _ _ _ x fun i hi => by
    simp only [List.length_singleton, span_apply] at *; omega).symm

end Sys2Proof.Tests
end

section
/-! SUPPORT. The bits of `W0` the opcode map compares (30_encoding.md R95, R97), in the words of R99. -/

namespace Sys2Proof.Machine

/-! ## Fields of a word -/

/-- Two words have the same `OPCODE` (R95) when they agree on bits 7 to 0. -/
theorem mod_256_eq_iff_getLsbD (w p : Word) :
    w.toNat % 256 = p.toNat % 256 ↔ ∀ i < 8, w.getLsbD i = p.getLsbD i := by
  have hbits : w.setWidth 8 = p.setWidth 8 ↔ ∀ i < 8, w.getLsbD i = p.getLsbD i := by
    rw [BitVec.eq_of_getLsbD_eq_iff]
    exact forall₂_congr fun i hi => by simp [hi]
  rw [← hbits, BitVec.toNat_eq, BitVec.toNat_setWidth, BitVec.toNat_setWidth]

/-- `W0[31:11]` is 0 (R95). -/
theorem lt_2048_iff_getLsbD (w : Word) : w.toNat < 2048 ↔ ∀ i, 11 ≤ i → w.getLsbD i = false :=
  ⟨fun h _ hi => Nat.testBit_lt_two_pow (h.trans_le (Nat.pow_le_pow_right (n := 2) (by decide) hi)),
   fun h => Nat.lt_pow_two_of_testBit (n := 11) _ h⟩

/-! ## The rows of the opcode map (R97) -/

/-- Every row compares `OPCODE` and `W0[31:11]` in full, and asks for 0 everywhere but in `OPCODE`. -/
theorem opRows_compare_opcode_and_reserved : ∀ r ∈ opRows, r.pattern.toNat < 256 ∧
    (∀ i < 8, r.mask.getLsbD i = true) ∧ ∀ i < 32, 11 ≤ i → r.mask.getLsbD i = true := by decide

/-- A word matches a row when its `OPCODE` is the row's, no reserved bit is set, and no flag is set that the row's mask
compares (R97). -/
theorem OpRow.matches_iff {r : OpRow} (hr : r ∈ opRows) (w : Word) : r.matches w = true ↔
    w.toNat % 256 = r.pattern.toNat ∧ w.toNat < 2048 ∧
    ∀ i < 11, 8 ≤ i → r.mask.getLsbD i = true → ¬ w.getLsbD i = true := by
  obtain ⟨hp, hlow, hhigh⟩ := opRows_compare_opcode_and_reserved r hr
  have hpat : ∀ i, 8 ≤ i → r.pattern.getLsbD i = false := fun i hi =>
    Nat.testBit_lt_two_pow (hp.trans_le (Nat.pow_le_pow_right (n := 2) (by decide) hi))
  have hand : r.matches w = true ↔ ∀ i < 32, (w.getLsbD i && r.mask.getLsbD i) = r.pattern.getLsbD i := by
    simp only [OpRow.matches, beq_iff_eq, BitVec.eq_of_getLsbD_eq_iff, BitVec.getLsbD_and]
  rw [hand, ← Nat.mod_eq_of_lt hp, mod_256_eq_iff_getLsbD, lt_2048_iff_getLsbD]
  constructor
  · intro h
    refine ⟨fun i hi => ?_, fun i hi => ?_, fun i hi h8 hm => ?_⟩
    · simpa [hlow i hi] using h i (by omega)
    · by_cases h32 : i < 32
      · simpa [hhigh i h32 hi, hpat i (by omega)] using h i h32
      · exact BitVec.getLsbD_of_ge w i (by omega)
    · simpa [hm, hpat i h8] using h i (by omega)
  · rintro ⟨hop, hres, hflag⟩ i hi
    rcases lt_or_ge i 8 with h8 | h8
    · simpa [hlow i h8] using hop i h8
    rcases lt_or_ge i 11 with h11 | h11
    · cases hm : r.mask.getLsbD i with
      | false => simp [hpat i h8]
      | true => simpa [hpat i h8] using hflag i h11 h8 hm
    · simp [hres i h11, hpat i h8]

/-- The flags a row's mask compares are those its command does not use (R96). -/
theorem opRows_compare_unused_flags : ∀ r ∈ opRows,
    (r.mask.getLsbD 8 = true ↔ r.pattern.toNat ∈ [0x22, 0x23, 0x50]) ∧
    (r.mask.getLsbD 9 = true ↔ r.pattern.toNat ∉ [0x30, 0x40]) ∧
    (r.mask.getLsbD 10 = true ↔ r.pattern.toNat ≠ 0x40) := by decide

/-- A flag of `W0` is set that the command of its `OPCODE` does not use (R96, R99). -/
abbrev setsUnusedFlag (w : Word) : Prop :=
  (w.getLsbD 8 = true ∧ w.toNat % 256 ∈ [0x22, 0x23, 0x50]) ∨
  (w.getLsbD 9 = true ∧ w.toNat % 256 ∉ [0x30, 0x40]) ∨
  (w.getLsbD 10 = true ∧ w.toNat % 256 ≠ 0x40)

theorem OpRow.matches_iff_not_setsUnusedFlag {r : OpRow} (hr : r ∈ opRows) (w : Word) : r.matches w = true ↔
    w.toNat % 256 = r.pattern.toNat ∧ w.toNat < 2048 ∧ ¬ setsUnusedFlag w := by
  obtain ⟨h8, h9, h10⟩ := opRows_compare_unused_flags r hr
  rw [OpRow.matches_iff hr w]
  refine and_congr_right fun hop => and_congr_right fun _ => ?_
  rw [setsUnusedFlag, hop, ← h8, ← h9, ← h10]
  constructor
  · rintro h (⟨hw, hm⟩ | ⟨hw, hm⟩ | ⟨hw, hm⟩)
    · exact h 8 (by decide) (by decide) hm hw
    · exact h 9 (by decide) (by decide) hm hw
    · exact h 10 (by decide) (by decide) hm hw
  · intro h i hi hge hm hw
    obtain rfl | rfl | rfl : i = 8 ∨ i = 9 ∨ i = 10 := by omega
    · exact h (.inl ⟨hw, hm⟩)
    · exact h (.inr (.inl ⟨hw, hm⟩))
    · exact h (.inr (.inr ⟨hw, hm⟩))

/-- The opcodes of the map are the eleven R99 speaks of. -/
theorem exists_row_pattern_iff (n : Nat) : (∃ r ∈ opRows, n = r.pattern.toNat) ↔
    n ∈ [0x01, 0x10, 0x11, 0x12, 0x20, 0x21, 0x22, 0x23, 0x30, 0x40, 0x50] := by
  have hpat : opRows.map (fun r => r.pattern.toNat) =
    [0x01, 0x10, 0x11, 0x12, 0x20, 0x21, 0x22, 0x23, 0x30, 0x40, 0x50] := rfl
  simp only [← hpat, List.mem_map, @eq_comm _ n]

/-- A word selects a command when R99 has nothing against it. -/
theorem selectOp_isSome_iff (w : Word) : (selectOp w).isSome = true ↔
    w.toNat % 256 ∈ [0x01, 0x10, 0x11, 0x12, 0x20, 0x21, 0x22, 0x23, 0x30, 0x40, 0x50] ∧
    w.toNat < 2048 ∧ ¬ setsUnusedFlag w := by
  have hsome : (selectOp w).isSome = true ↔ ∃ r ∈ opRows, r.matches w = true := by simp [selectOp]
  rw [hsome, ← exists_row_pattern_iff]
  constructor
  · rintro ⟨r, hr, hm⟩
    obtain ⟨hop, hrest⟩ := (OpRow.matches_iff_not_setsUnusedFlag hr w).1 hm
    exact ⟨⟨r, hr, hop⟩, hrest⟩
  · rintro ⟨⟨r, hr, hop⟩, hrest⟩
    exact ⟨r, hr, (OpRow.matches_iff_not_setsUnusedFlag hr w).2 ⟨hop, hrest⟩⟩

/-! ## The decoder (R97, R99) -/

/-- The row for RD_REG is the one of opcode 0x50. -/
theorem opRows_rdReg_iff : ∀ r ∈ opRows, r.op = .rdReg ↔ r.pattern.toNat = 0x50 := by decide

theorem eq_rdReg_iff_of_selectOp {w : Word} {op : Op} (h : selectOp w = some op) :
    op = .rdReg ↔ w.toNat % 256 = 0x50 := by
  obtain ⟨r, hfind, rfl⟩ := Option.map_eq_some_iff.1 h
  have hr : r ∈ opRows := List.mem_of_find?_eq_some hfind
  have hm : r.matches w = true := List.find?_some (p := fun r : OpRow => r.matches w) hfind
  rw [((OpRow.matches_iff hr w).1 hm).1, opRows_rdReg_iff r hr]

/-- The listed register numbers (10_state.md R30, R31). -/
theorem Reg.ofNumber?_isSome_iff (n : Word) : (Reg.ofNumber? n).isSome = true ↔ n.toNat ∈
    [0x00, 0x01, 0x02, 0x03, 0x04, 0x05, 0x08, 0x09, 0x0A, 0x0B, 0x10, 0x11, 0x12, 0x18, 0x19, 0x1A] := by
  have hnum : Reg.all.map (fun r => r.number.toNat) =
    [0x00, 0x01, 0x02, 0x03, 0x04, 0x05, 0x08, 0x09, 0x0A, 0x0B, 0x10, 0x11, 0x12, 0x18, 0x19, 0x1A] := rfl
  simp only [← hnum, Reg.ofNumber?, List.find?_isSome, beq_iff_eq, List.mem_map, BitVec.toNat_eq]

/-- A descriptor decodes when its `W0` selects a command and, for RD_REG, its number is a register's. -/
theorem exists_decode_eq_ok_iff (d : Descriptor) : (∃ i, decode d = .ok i) ↔
    (selectOp d.w0).isSome = true ∧ (d.w0.toNat % 256 = 0x50 → (Reg.ofNumber? d.w2).isSome = true) := by
  cases hsel : selectOp d.w0 with
  | none => simp [decode, hsel]
  | some op =>
    rw [← eq_rdReg_iff_of_selectOp hsel]
    cases op with
    | rdReg => by_cases hreg : (Reg.ofNumber? d.w2).isSome = true <;> simp [decode, hsel, hreg]
    | _ => simp [decode, hsel]

/-- The decoder accepts exactly the descriptors R99 does not call illegal. -/
theorem exists_decode_eq_ok_iff_not_illegal (d : Descriptor) : (∃ i, decode d = .ok i) ↔ ¬ illegalDescriptor d := by
  rw [exists_decode_eq_ok_iff, selectOp_isSome_iff, Reg.ofNumber?_isSome_iff]
  simp only [illegalDescriptor, setsUnusedFlag, not_or, not_and, not_not, not_le, and_assoc]

/-! ## Running a descriptor (60_exceptions.md R291, R292) -/

theorem runCommand_of_decode_ok {d : Descriptor} {i : Instr} (h : decode d = .ok i) (s : State) :
    runCommand d s = exec i s := by simp [runCommand, h]

theorem runCommand_of_not_decodable {d : Descriptor} (h : ¬ ∃ i, decode d = .ok i) (s : State) :
    runCommand d s = illegalCommand s := by
  cases hd : decode d with
  | ok i => exact absurd ⟨i, hd⟩ h
  | error e => simp [runCommand, hd]

/-- Settles O5: the decoder rejects exactly what R99 calls illegal, and a rejected descriptor only answers. -/
theorem illegalDescriptorsAnswerFF : Obligations.IllegalDescriptorsAnswerFF := by
  intro s d
  refine ⟨fun hill => ?_, fun hleg => ?_⟩
  · exact runCommand_of_not_decodable (fun hd => (exists_decode_eq_ok_iff_not_illegal d).1 hd hill) s
  · obtain ⟨i, hi⟩ := (exists_decode_eq_ok_iff_not_illegal d).2 hleg
    exact ⟨i, hi, runCommand_of_decode_ok hi s⟩

end Sys2Proof.Machine
end

section
/-! SUPPORT. The bytes of a frame by offset (30_encoding.md R81). -/

namespace Sys2Proof.Machine

/-! ## The two bytes of a 16-bit field, low byte first (00_scope.md R12) -/

theorem extractLsb'_low_toNat (v : Half) : (v.extractLsb' 0 8).toNat = v.toNat % 256 := by
  simp [BitVec.extractLsb'_toNat]

theorem extractLsb'_high_toNat (v : Half) : (v.extractLsb' 8 8).toNat = v.toNat / 256 := by
  rw [BitVec.extractLsb'_toNat, Nat.shiftRight_eq_div_pow]
  exact Nat.mod_eq_of_lt (by have := v.isLt; omega)

/-! ## The parts of a frame -/

/-- The checksum of the header is taken over offsets 0 to 5. -/
@[simp] theorem frameBytes_take_six (c : Config) (k : Half) (p : List Byte) :
    (frameBytes c k p).take 6 = header6 c k (BitVec.ofNat 16 p.length) := rfl

/-- Behind the eight header bytes stand the payload and its checksum. -/
@[simp] theorem frameBytes_drop_eight (c : Config) (k : Half) (p : List Byte) :
    (frameBytes c k p).drop 8 = p ++ le16 (crc16 c p) := rfl

/-- The payload checksum stands behind the payload. -/
theorem byteAt_frameBytes_payload_crc (c : Config) (k : Half) (p : List Byte) (i : Nat) :
    byteAt (frameBytes c k p) (8 + p.length + i) = byteAt (le16 (crc16 c p)) i := by
  rw [Nat.add_assoc, ← byteAt_drop, frameBytes_drop_eight, byteAt_append_right (Nat.le_add_right _ _),
    Nat.add_sub_cancel_left]

/-- Settles O33: the header bytes stand where they are written, and the payload checksum behind the payload. -/
theorem frameLayoutByOffset : Obligations.FrameLayoutByOffset := by
  intro c k p hp
  have hsize : (BitVec.ofNat 16 p.length).toNat = p.length := Nat.mod_eq_of_lt (by omega)
  rw [frameBytes_take_six]
  refine ⟨(frameBytes_length c k p).trans (by omega), rfl, rfl, extractLsb'_low_toNat k, extractLsb'_high_toNat k,
    ?_, ?_, extractLsb'_low_toNat _, extractLsb'_high_toNat _, by simp, ?_, ?_⟩
  · exact (extractLsb'_low_toNat _).trans (by rw [hsize])
  · exact (extractLsb'_high_toNat _).trans (by rw [hsize])
  · exact (congrArg _ (byteAt_frameBytes_payload_crc c k p 0)).trans (extractLsb'_low_toNat _)
  · exact (congrArg _ (byteAt_frameBytes_payload_crc c k p 1)).trans (extractLsb'_high_toNat _)

end Sys2Proof.Machine
end

section
/-! SUPPORT. The checksum engine and the command CRC16 (40_crc.md). -/

namespace Sys2Proof.Machine

/-! ## The register (R122) -/

@[simp] theorem crc16_nil (c : Config) : crc16 c [] = c.crcInit := rfl

/-- The checksums of the prefixes of a sequence, shortest first, are the values the register passes through. -/
theorem crc16_prefixes_eq_scanl (c : Config) (l : List Byte) :
    (List.range (l.length + 1)).map (fun k => crc16 c (l.take k)) = l.scanl (crcByte c.crcPoly) c.crcInit := by
  refine List.ext_getElem (by simp) fun i hi _ => ?_
  rw [List.getElem_map, List.getElem_range, List.getElem_scanl, crc16, crcFrom]

/-! ## The command (R127) -/

theorem exec_crc16_none (n : Word) (s : State) : exec (.crc16 none n) s = raise .nullPointer s := rfl

theorem exec_crc16_of_admissible {a n : Word} (h : Admissible a n) (s : State) : exec (.crc16 (some a) n) s =
    answer (.ok ((crc16 s.cfg (s.mem.readAt (span a.toNat) n.toNat)).setWidth 32) 0 0 0) s :=
  if_neg (not_not.mpr h)

/-- A region of no bytes is admissible wherever it stands (R54). -/
theorem admissible_zero (a : Word) : Admissible a 0 := a.isLt.le

/-- The checksum of a region of no bytes is `CRC_INIT`. -/
theorem exec_crc16_zero (a : Word) (s : State) :
    exec (.crc16 (some a) 0) s = answer (.ok (s.cfg.crcInit.setWidth 32) 0 0 0) s := by
  have hempty : s.mem.readAt (span a.toNat) (0 : Word).toNat = [] := Memory.readAt_zero _ _
  rw [exec_crc16_of_admissible (admissible_zero a), hempty, crc16_nil]

/-- Settles O16, one clause for each way the command ends; at length 0 the region is admissible at any address. -/
theorem crc16Answers : Obligations.Crc16Answers := fun s n =>
  ⟨exec_crc16_none n s, fun a => ⟨fun h => exec_crc16_of_admissible h s, exec_crc16_zero a s⟩⟩

/-- Settles O17: the loop of R122 does not run. -/
theorem crcOfNothingIsInit : Obligations.CrcOfNothingIsInit := crc16_nil

/-- Settles O18: the ten checksums are the register's values over one pass through the nine bytes. -/
theorem crcKnownVector : Obligations.CrcKnownVector := by
  have hpass := crc16_prefixes_eq_scanl Config.defaults [0x31, 0x32, 0x33, 0x34, 0x35, 0x36, 0x37, 0x38, 0x39]
  have hvalues : [0x31, 0x32, 0x33, 0x34, 0x35, 0x36, 0x37, 0x38, 0x39].scanl
      (crcByte Config.defaults.crcPoly) Config.defaults.crcInit =
    [0xFFFF, 0xC782, 0x3DBA, 0x5BCE, 0x5349, 0x4560, 0x2EF4, 0x7718, 0xA12B, 0x29B1] := by decide
  simpa [Obligations.CrcKnownVector, Function.comp_def] using congrArg (List.map BitVec.toNat) (hpass.trans hvalues)

end Sys2Proof.Machine
end

section
/-! SUPPORT. The circular byte buffer (41_cbuf.md): what its three commands do to memory, to the registers and to the
content, and that each of them keeps the buffer invariant (10_state.md R23). -/

namespace Sys2Proof.Machine

/-! ## Stores to a region (20_memory.md R55) -/

theorem Memory.read_writeAt_span (m : Memory) (a : Nat) (bs : List Byte) (i : Nat) (hi : i < bs.length) :
    (m.writeAt (span a) bs).read (a + i) = bs[i] :=
  Memory.read_writeAt m (span a) bs i hi fun j _ hij => by simp only [span_apply]; omega

theorem Memory.read_writeAt_span_of_outside (m : Memory) (a : Nat) (bs : List Byte) (x : Nat)
    (hx : x < a ∨ a + bs.length ≤ x) : (m.writeAt (span a) bs).read x = m.read x :=
  Memory.read_writeAt_of_forall_ne m (span a) bs x fun i hi => by simp only [span_apply]; omega

theorem Memory.readAt_writeAt_span (m : Memory) (a : Nat) (bs : List Byte) :
    (m.writeAt (span a) bs).readAt (span a) bs.length = bs :=
  Memory.readAt_writeAt m (span a) bs fun i _ j _ hij => by simp only [span_apply]; omega

/-! ## The cursors and the slots under the invariant (R147, 10_state.md R23) -/

/-- No bytes lie between equal cursors, or all of them: `CB_CAP` divides the occupied length. -/
theorem CircBuf.app_eq_con_iff {c : CircBuf} (h : c.inv) (hv : c.valid = true) :
    c.app = c.con ↔ c.free = 0 ∨ c.free = c.cap := by
  obtain ⟨hfree, hvalid, -⟩ := h
  obtain ⟨hcap, -, hcon, -, happ⟩ := hvalid hv
  have hdvd : c.app = c.con ↔ c.cap.toNat ∣ c.cap.toNat - c.free.toNat := by
    rw [BitVec.toNat_eq, happ, ← Nat.add_modEq_left_iff (a := c.con.toNat), Nat.ModEq, Nat.mod_eq_of_lt hcon]
  rw [hdvd, BitVec.toNat_eq, BitVec.toNat_eq]
  constructor
  · intro hd
    rcases Nat.eq_zero_or_pos (c.cap.toNat - c.free.toNat) with h0 | hpos
    · exact .inr (by omega)
    · have hle := Nat.le_of_dvd hpos hd
      exact .inl (show c.free.toNat = 0 by omega)
  · rintro (h0 | hc)
    · rw [h0]; exact dvd_rfl
    · rw [hc, Nat.sub_self]; exact dvd_zero _

/-- The slots to be appended to follow the occupied ones (R141, R143). -/
theorem State.tailSlot_eq_headSlot {s : State} (h : s.cb.inv) (hv : s.cb.valid = true) (i : Nat) :
    s.tailSlot i = s.headSlot (s.occupied + i) := by
  obtain ⟨-, hvalid, -⟩ := h
  obtain ⟨-, -, -, -, happ⟩ := hvalid hv
  rw [State.tailSlot, State.headSlot, State.occupied, ring_apply, ring_apply, happ, Nat.mod_add_mod, Nat.add_assoc]

@[simp] theorem State.content_length (s : State) : s.content.length = s.occupied := Memory.readAt_length ..

theorem State.content_eq_nil_iff (s : State) : s.content = [] ↔ s.occupied = 0 := by
  rw [← List.length_eq_zero_iff, State.content_length]

theorem State.free_add_occupied {s : State} (h : s.cb.inv) : s.cb.free.toNat + s.occupied = s.cb.cap.toNat :=
  Nat.add_sub_cancel' h.1

/-- The content depends on the buffer registers and the occupied bytes only. -/
theorem State.content_congr {s t : State} (hcb : t.cb = s.cb)
    (hmem : ∀ i < s.occupied, t.mem.read (s.headSlot i) = s.mem.read (s.headSlot i)) : t.content = s.content := by
  have hocc : t.occupied = s.occupied := by rw [State.occupied, hcb]; rfl
  have hslot : t.headSlot = s.headSlot := by rw [State.headSlot, hcb]; rfl
  rw [State.content, State.content, hocc, hslot]
  exact Memory.readAt_congr hmem

/-- A store to a region that shares no byte with the storage leaves the occupied bytes alone (20_memory.md R61). -/
theorem State.read_headSlot_writeAt_span {s : State} {a : Nat} {bs : List Byte}
    (hdis : ¬ Overlap a bs.length s.cb.base.toNat s.cb.cap.toNat) {i : Nat} (hi : i < s.occupied) :
    (s.mem.writeAt (span a) bs).read (s.headSlot i) = s.mem.read (s.headSlot i) := by
  have hcap : 1 ≤ s.cb.cap.toNat := by rw [State.occupied] at hi; omega
  have hge : s.cb.base.toNat ≤ s.headSlot i := le_ring ..
  have hlt : s.headSlot i < s.cb.base.toNat + s.cb.cap.toNat := ring_lt hcap
  refine Memory.read_writeAt_of_forall_ne _ _ _ _ fun j hj heq => hdis ?_
  rw [span_apply] at heq
  omega

/-- Settles O26: `CB_CAP - CB_FREE` bytes are occupied, all or none of them when the cursors meet. -/
theorem fullAndEmptyAreToldApart : Obligations.FullAndEmptyAreToldApart := by
  intro s h hv
  have hsum := State.free_add_occupied h
  rw [State.content_eq_nil_iff, State.content_length]
  refine ⟨CircBuf.app_eq_con_iff h hv, ?_, ?_, hsum⟩
  · rw [BitVec.toNat_eq]; omega
  · rw [BitVec.toNat_eq]; show _ ↔ s.cb.free.toNat = 0; omega

/-! ## CB_INIT (R142) -/

theorem exec_cbInit_of_admissible {a n : Word} (hn : n ≠ 0) (ha : Admissible a n) (s : State) :
    exec (.cbInit (some a) n) s = answer .done (cbInitEffect a n s) := by
  have hn : n.toNat ≠ 0 := fun h => hn (BitVec.eq_of_toNat_eq h)
  rw [exec, execCbInit, if_neg hn, if_neg (not_not.mpr ha)]

@[simp] theorem cbInitEffect_content (a n : Word) (s : State) : (cbInitEffect a n s).content = [] :=
  (State.content_eq_nil_iff _).2 (Nat.sub_self _)

theorem cbInitEffect_inv {a n : Word} (hn : n.toNat ≠ 0) (ha : Admissible a n) (s : State) :
    (cbInitEffect a n s).cb.inv :=
  have hpos : 0 < n.toNat := Nat.pos_of_ne_zero hn
  ⟨le_rfl, fun _ => ⟨hpos, hpos, hpos, ha, by simp [cbInitEffect]⟩, nofun⟩

/-- Settles O22: the storage is one region, filled with zeros, and as much is free as it holds. -/
theorem cbInitAttachesZeroedStorage : Obligations.CbInitAttachesZeroedStorage := by
  intro s n
  refine ⟨rfl, fun a => ⟨rfl, fun hn ha => ?_⟩⟩
  refine ⟨_, exec_cbInit_of_admissible hn ha s, rfl, rfl, fun x hge hlt => ?_, fun x hx => ?_,
    cbInitEffect_content a n s, rfl, rfl, rfl, rfl, rfl⟩
  · obtain ⟨i, rfl⟩ := Nat.exists_eq_add_of_le hge
    exact (Memory.read_writeAt_span _ _ _ i (by rw [List.length_replicate]; omega)).trans (List.getElem_replicate _)
  · exact Memory.read_writeAt_span_of_outside _ _ _ x (by rwa [List.length_replicate])

/-! ## CB_APPEND (R143) -/

section Append

variable {s : State} {a n : Word}

theorem exec_cbAppend_of_invalid (hv : s.cb.valid = false) (a n : Word) :
    exec (.cbAppend (some a) n) s = raise .nullPointer s := by
  rw [exec, execCbAppend, if_pos (by simp [hv])]

theorem exec_cbAppend_of_free_lt (hv : s.cb.valid = true) (hn : s.cb.free.toNat < n.toNat) (a : Word) :
    exec (.cbAppend (some a) n) s = raise .insufficientSpace s := by
  rw [exec, execCbAppend, if_neg (not_not.mpr hv), if_pos hn]

theorem exec_cbAppend_of_fits (hv : s.cb.valid = true) (hn : n.toNat ≤ s.cb.free.toNat) (ha : Admissible a n)
    (hdis : ¬ Overlap a.toNat n.toNat s.cb.base.toNat s.cb.cap.toNat) :
    exec (.cbAppend (some a) n) s = answer .done (cbAppendEffect a n s) := by
  rw [exec, execCbAppend, if_neg (not_not.mpr hv), if_neg hn.not_gt, if_neg (not_not.mpr ha), if_neg hdis]

theorem cbAppendEffect_free_toNat (s : State) (a n : Word) :
    (cbAppendEffect a n s).cb.free.toNat = s.cb.free.toNat - n.toNat :=
  Nat.mod_eq_of_lt (by have := s.cb.free.isLt; omega)

theorem cbAppendEffect_app_toNat (h : s.cb.inv) (hv : s.cb.valid = true) (a n : Word) :
    (cbAppendEffect a n s).cb.app.toNat = (s.cb.app.toNat + n.toNat) % s.cb.cap.toNat := by
  obtain ⟨-, hvalid, -⟩ := h
  obtain ⟨hcap, -⟩ := hvalid hv
  exact Nat.mod_eq_of_lt ((Nat.mod_lt _ hcap).trans s.cb.cap.isLt)

theorem cbAppendEffect_occupied (h : s.cb.inv) (hn : n.toNat ≤ s.cb.free.toNat) (a : Word) :
    (cbAppendEffect a n s).occupied = s.occupied + n.toNat := by
  have hfree : s.cb.free.toNat ≤ s.cb.cap.toNat := h.1
  rw [State.occupied, cbAppendEffect_free_toNat]
  exact tsub_tsub_assoc hfree hn

theorem cbAppendEffect_inv (h : s.cb.inv) (hv : s.cb.valid = true) (hn : n.toNat ≤ s.cb.free.toNat) (a : Word) :
    (cbAppendEffect a n s).cb.inv := by
  have hocc := cbAppendEffect_occupied h hn a
  have happ' := cbAppendEffect_app_toNat h hv a n
  have hfree' := cbAppendEffect_free_toNat s a n
  obtain ⟨hfree, hvalid, -⟩ := h
  obtain ⟨hcap, -, hcon, hbase, happ⟩ := hvalid hv
  have hcursors : (cbAppendEffect a n s).cb.app.toNat =
      (s.cb.con.toNat + (cbAppendEffect a n s).occupied) % s.cb.cap.toNat := by
    rw [happ', happ, Nat.mod_add_mod, hocc, Nat.add_assoc]; rfl
  exact ⟨hfree'.trans_le ((Nat.sub_le _ _).trans hfree),
    fun _ => ⟨hcap, happ'.trans_lt (Nat.mod_lt _ hcap), hcon, hbase, hcursors⟩, fun hv' => by cases hv.symm.trans hv'⟩

/-- Slot `i` of the tail takes item `i`: no more slots are written than the storage has. -/
theorem cbAppendEffect_read_tailSlot (h : s.cb.inv) (hn : n.toNat ≤ s.cb.free.toNat) (a : Word) {i : Nat}
    (hi : i < n.toNat) : (cbAppendEffect a n s).mem.read (s.tailSlot i) = s.mem.read (a.toNat + i) := by
  have hfree : s.cb.free.toNat ≤ s.cb.cap.toNat := h.1
  refine (Memory.read_writeAt _ s.tailSlot _ i (by simpa using hi) fun j hj hij => ?_).trans
    (Memory.readAt_getElem ..)
  rw [Memory.readAt_length] at hj
  exact ring_ne hij (by omega)

theorem cbAppendEffect_read_of_forall_ne (s : State) (a : Word) {x : Nat} (hx : ∀ i < n.toNat, x ≠ s.tailSlot i) :
    (cbAppendEffect a n s).mem.read x = s.mem.read x :=
  Memory.read_writeAt_of_forall_ne _ _ _ x fun i hi => hx i (by simpa using hi)

/-- The occupied slots stay as they are, and the slots behind them take the items. -/
theorem cbAppendEffect_content (h : s.cb.inv) (hv : s.cb.valid = true) (hn : n.toNat ≤ s.cb.free.toNat) (a : Word) :
    (cbAppendEffect a n s).content = s.content ++ s.mem.readAt (span a.toNat) n.toNat := by
  have hfree : s.cb.free.toNat ≤ s.cb.cap.toNat := h.1
  have hslot : (cbAppendEffect a n s).headSlot = s.headSlot := rfl
  rw [State.content, cbAppendEffect_occupied h hn, hslot, Memory.readAt_add]
  congr 1
  · refine Memory.readAt_congr fun i hi => cbAppendEffect_read_of_forall_ne s a fun j hj heq => ?_
    rw [State.tailSlot_eq_headSlot h hv] at heq
    rw [State.occupied] at hi heq
    exact ring_ne (by omega) (by omega) heq.symm
  · refine Memory.readAt_congr fun i hi => ?_
    rw [← State.tailSlot_eq_headSlot h hv]
    exact cbAppendEffect_read_tailSlot h hn a hi

/-- No item moves no cursor. -/
theorem cbAppendEffect_zero (h : s.cb.inv) (hv : s.cb.valid = true) (a : Word) : cbAppendEffect a 0 s = s := by
  obtain ⟨-, hvalid, -⟩ := h
  obtain ⟨-, happ, -⟩ := hvalid hv
  simp [cbAppendEffect, Memory.writeAt, Nat.mod_eq_of_lt happ, State.setCb]

/-- Settles O23: the tail slots are the ones behind the content; a full buffer has equal cursors by R147. -/
theorem cbAppendPutsBytesAtTheTail : Obligations.CbAppendPutsBytesAtTheTail := by
  intro s n h
  refine ⟨rfl, fun a => ⟨fun hv => exec_cbAppend_of_invalid hv a n, fun hv hn => exec_cbAppend_of_free_lt hv hn a,
    fun hv => ?_, fun hv hn ha hdis => ?_⟩⟩
  · rw [exec_cbAppend_of_fits hv (Nat.zero_le _) (admissible_zero a) (fun hov => Nat.lt_irrefl 0 hov.1),
      cbAppendEffect_zero h hv]
    rfl
  · refine ⟨_, exec_cbAppend_of_fits hv hn ha hdis, rfl, cbAppendEffect_app_toNat h hv a n,
      cbAppendEffect_free_toNat s a n, rfl, rfl, rfl, rfl, fun hfull => ?_,
      fun i hi => cbAppendEffect_read_tailSlot h hn a hi, fun x hx => cbAppendEffect_read_of_forall_ne s a hx,
      cbAppendEffect_content h hv hn a, rfl, rfl, rfl, rfl, rfl⟩
    have hfree : (cbAppendEffect a n s).cb.free = 0 :=
      BitVec.eq_of_toNat_eq ((cbAppendEffect_free_toNat s a n).trans (Nat.sub_eq_zero_of_le hfull.ge))
    exact ⟨hfree, (CircBuf.app_eq_con_iff (cbAppendEffect_inv h hv hn a) hv).2 (.inl hfree)⟩

end Append

/-! ## CB_CONSUME (R144) -/

section Consume

variable {s : State} {a n : Word}

theorem exec_cbConsume_of_invalid (hv : s.cb.valid = false) (a n : Word) :
    exec (.cbConsume (some a) n) s = raise .nullPointer s := by
  rw [exec, execCbConsume, if_pos (by simp [hv])]

theorem exec_cbConsume_of_occupied_lt (hv : s.cb.valid = true) (hn : s.occupied < n.toNat) (a : Word) :
    exec (.cbConsume (some a) n) s = raise .insufficientSpace s := by
  rw [exec, execCbConsume, if_neg (not_not.mpr hv), if_pos hn]

theorem exec_cbConsume_of_occupied (hv : s.cb.valid = true) (hn : n.toNat ≤ s.occupied) (ha : Admissible a n)
    (hdis : ¬ Overlap a.toNat n.toNat s.cb.base.toNat s.cb.cap.toNat) :
    exec (.cbConsume (some a) n) s = answer .done (cbConsumeEffect a n s) := by
  rw [exec, execCbConsume, if_neg (not_not.mpr hv), if_neg hn.not_gt, if_neg (not_not.mpr ha), if_neg hdis]

theorem cbConsumeEffect_free_toNat (h : s.cb.inv) (hn : n.toNat ≤ s.occupied) (a : Word) :
    (cbConsumeEffect a n s).cb.free.toNat = s.cb.free.toNat + n.toNat :=
  Nat.mod_eq_of_lt (by have := s.cb.cap.isLt; have := State.free_add_occupied h; omega)

theorem cbConsumeEffect_con_toNat (h : s.cb.inv) (hv : s.cb.valid = true) (a n : Word) :
    (cbConsumeEffect a n s).cb.con.toNat = (s.cb.con.toNat + n.toNat) % s.cb.cap.toNat := by
  obtain ⟨-, hvalid, -⟩ := h
  obtain ⟨hcap, -⟩ := hvalid hv
  exact Nat.mod_eq_of_lt ((Nat.mod_lt _ hcap).trans s.cb.cap.isLt)

theorem cbConsumeEffect_occupied (h : s.cb.inv) (hn : n.toNat ≤ s.occupied) (a : Word) :
    (cbConsumeEffect a n s).occupied = s.occupied - n.toNat := by
  rw [State.occupied, cbConsumeEffect_free_toNat h hn]
  exact Nat.sub_add_eq ..

/-- The byte that was `n`-th oldest is the oldest now. -/
theorem cbConsumeEffect_headSlot (h : s.cb.inv) (hv : s.cb.valid = true) (a n : Word) (i : Nat) :
    (cbConsumeEffect a n s).headSlot i = s.headSlot (n.toNat + i) := by
  rw [State.headSlot, cbConsumeEffect_con_toNat h hv, ring_apply]
  exact congrArg (s.cb.base.toNat + ·) ((Nat.mod_add_mod ..).trans (by rw [Nat.add_assoc]))

theorem cbConsumeEffect_inv (h : s.cb.inv) (hv : s.cb.valid = true) (hn : n.toNat ≤ s.occupied) (a : Word) :
    (cbConsumeEffect a n s).cb.inv := by
  have hocc := cbConsumeEffect_occupied h hn a
  have hcon' := cbConsumeEffect_con_toNat h hv a n
  have hfree' := cbConsumeEffect_free_toNat h hn a
  have hsum := State.free_add_occupied h
  obtain ⟨-, hvalid, -⟩ := h
  obtain ⟨hcap, happ, -, hbase, hcur⟩ := hvalid hv
  have hcursors : s.cb.app.toNat =
      ((cbConsumeEffect a n s).cb.con.toNat + (cbConsumeEffect a n s).occupied) % s.cb.cap.toNat := by
    rw [hcur, hcon', Nat.mod_add_mod, hocc, Nat.add_assoc, Nat.add_sub_cancel' hn]; rfl
  exact ⟨hfree'.trans_le (show _ ≤ s.cb.cap.toNat by omega),
    fun _ => ⟨hcap, happ, hcon'.trans_lt (Nat.mod_lt _ hcap), hbase, hcursors⟩, fun hv' => by cases hv.symm.trans hv'⟩

theorem cbConsumeEffect_read_span (s : State) (a : Word) {i : Nat} (hi : i < n.toNat) :
    (cbConsumeEffect a n s).mem.read (a.toNat + i) = s.mem.read (s.headSlot i) :=
  (Memory.read_writeAt_span _ _ _ i (by simpa using hi)).trans (Memory.readAt_getElem ..)

theorem cbConsumeEffect_read_of_outside (s : State) {x : Nat} (hx : x < a.toNat ∨ a.toNat + n.toNat ≤ x) :
    (cbConsumeEffect a n s).mem.read x = s.mem.read x :=
  Memory.read_writeAt_span_of_outside _ _ _ x (by simpa using hx)

/-- The destination takes the oldest bytes, in order. -/
theorem cbConsumeEffect_readAt_span (hn : n.toNat ≤ s.occupied) (a : Word) :
    (cbConsumeEffect a n s).mem.readAt (span a.toNat) n.toNat = s.content.take n.toNat := by
  rw [State.content, Memory.readAt_take _ _ hn]
  exact Memory.readAt_congr fun i hi => cbConsumeEffect_read_span s a hi

/-- The occupied slots stay as they are, and the first `n` of them are occupied no longer. -/
theorem cbConsumeEffect_content (h : s.cb.inv) (hv : s.cb.valid = true) (hn : n.toNat ≤ s.occupied)
    (hdis : ¬ Overlap a.toNat n.toNat s.cb.base.toNat s.cb.cap.toNat) :
    (cbConsumeEffect a n s).content = s.content.drop n.toNat := by
  rw [State.content, State.content, Memory.readAt_drop _ _ hn, cbConsumeEffect_occupied h hn]
  refine Memory.readAt_congr fun i hi => ?_
  rw [cbConsumeEffect_headSlot h hv]
  exact State.read_headSlot_writeAt_span (by rwa [Memory.readAt_length]) (by omega)

/-- No byte moves no cursor. -/
theorem cbConsumeEffect_zero (h : s.cb.inv) (hv : s.cb.valid = true) (a : Word) : cbConsumeEffect a 0 s = s := by
  obtain ⟨-, hvalid, -⟩ := h
  obtain ⟨-, -, hcon, -⟩ := hvalid hv
  simp [cbConsumeEffect, Memory.writeAt, Nat.mod_eq_of_lt hcon, State.setCb]

/-- Settles O24: the head slots hold the content; an emptied buffer has equal cursors by R147. -/
theorem cbConsumeTakesBytesFromTheHead : Obligations.CbConsumeTakesBytesFromTheHead := by
  intro s n h
  refine ⟨rfl, fun a => ⟨fun hv => exec_cbConsume_of_invalid hv a n,
    fun hv hn => exec_cbConsume_of_occupied_lt hv hn a, fun hv => ?_, fun hv hn ha hdis => ?_⟩⟩
  · rw [exec_cbConsume_of_occupied hv (Nat.zero_le _) (admissible_zero a) (fun hov => Nat.lt_irrefl 0 hov.1),
      cbConsumeEffect_zero h hv]
    rfl
  · refine ⟨_, exec_cbConsume_of_occupied hv hn ha hdis, rfl, cbConsumeEffect_con_toNat h hv a n,
      cbConsumeEffect_free_toNat h hn a, rfl, rfl, rfl, rfl, fun hempty => ?_,
      fun i hi => cbConsumeEffect_read_span s a hi, fun x hx => cbConsumeEffect_read_of_outside s hx,
      cbConsumeEffect_readAt_span hn a, cbConsumeEffect_content h hv hn hdis, rfl, rfl, rfl, rfl, rfl⟩
    have hfree : (cbConsumeEffect a n s).cb.free = s.cb.cap :=
      BitVec.eq_of_toNat_eq ((cbConsumeEffect_free_toNat h hn a).trans (hempty ▸ State.free_add_occupied h))
    exact ⟨hfree, ((CircBuf.app_eq_con_iff (cbConsumeEffect_inv h hv hn a) hv).2 (.inr hfree)).symm⟩

end Consume

end Sys2Proof.Machine
end

section
/-! SUPPORT. The circular byte buffer over a run of commands (41_cbuf.md R146): the bytes one command takes and
delivers, what one command does to the content, and the runs `fifoTrace` speaks of. -/

namespace Sys2Proof.Machine

/-! ## Commands that leave the buffer alone -/

/-- The commands outside this unit change neither the buffer registers nor, ENC_BUILD excepted, a byte of `MEM`. -/
theorem exec_cb_mem_of_op {i : Instr} {s t : State} (hop : i.op ∉ [.cbInit, .cbAppend, .cbConsume, .encBuild])
    (h : exec i s = .next t) : t.cb = s.cb ∧ t.mem = s.mem := by
  cases i with
  | cbInit | cbAppend | cbConsume | encBuild => simp [Instr.op] at hop
  | crc16 ref n => obtain ⟨-, rfl⟩ | ⟨a, -, -, rfl⟩ := execCrc16_cases h <;> exact ⟨rfl, rfl⟩
  | encInit ref n => obtain ⟨-, rfl⟩ | ⟨-, -, rfl⟩ | ⟨a, -, -, -, rfl⟩ := execEncInit_cases h <;> exact ⟨rfl, rfl⟩
  | frameSize n => obtain rfl := execFrameSize_cases h; exact ⟨rfl, rfl⟩
  | encSetCounter n => obtain rfl := execEncSetCounter_cases h; exact ⟨rfl, rfl⟩
  | decode w =>
    obtain ⟨-, rfl⟩ | ⟨W, -, -, ⟨k, -, rfl⟩ | ⟨f, -, rfl⟩⟩ := execDecode_cases h <;> exact ⟨rfl, rfl⟩
  | scan w sink => obtain ⟨-, rfl⟩ | ⟨W, -, -, -, rfl⟩ := execScan_cases h <;> exact ⟨rfl, rfl⟩
  | rdReg n => obtain ⟨-, rfl⟩ | ⟨r, -, rfl⟩ := execRdReg_cases h <;> exact ⟨rfl, rfl⟩

/-- ENC_BUILD changes the content only by writing a frame over the storage (42_encoder.md R172). -/
theorem exec_encBuild_cb_content {ref : Ref} {n : Word} {s t : State} (h : exec (.encBuild ref n) s = .next t)
    (hdis : ¬ Overlap s.enc.base.toNat (n.toNat + 10) s.cb.base.toNat s.cb.cap.toNat) :
    t.cb = s.cb ∧ t.content = s.content := by
  obtain ⟨-, rfl⟩ | ⟨-, -, -, rfl⟩ | ⟨-, -, -, -, rfl⟩ | ⟨a, -, -, -, -, -, -, -, rfl⟩ := execEncBuild_cases h
  case inr.inr.inr =>
    exact ⟨rfl, State.content_congr rfl fun i hi => State.read_headSlot_writeAt_span (by simpa using hdis) hi⟩
  all_goals exact ⟨rfl, rfl⟩

/-! ## One command -/

/-- The bytes a command takes into the buffer on its way from `s` to `t` (R146). -/
def bytesTaken (i : Instr) (s t : State) : List Byte :=
  match i with
  | .cbAppend (some a) n => if t.succeeded then s.mem.readAt (span a.toNat) n.toNat else []
  | _ => []

/-- The bytes a command that ended in `t` delivered from the buffer (R146). -/
def bytesDelivered (i : Instr) (t : State) : List Byte :=
  match i with
  | .cbConsume (some a) n => if t.succeeded then t.mem.readAt (span a.toNat) n.toNat else []
  | _ => []

/-- The command is no CB_INIT and no ENC_BUILD whose frame would lie over the storage: R146's proviso. -/
def leavesStorageToBuffer (i : Instr) (s : State) : Prop :=
  match i with
  | .cbInit _ _ => False
  | .encBuild _ n => ¬ Overlap s.enc.base.toNat (n.toNat + 10) s.cb.base.toNat s.cb.cap.toNat
  | _ => True

/-- A run of `fifoTrace` is a first command followed by a run. -/
theorem fifoTrace_cons {i : Instr} {is : List Instr} {s u : State} {taken delivered : List Byte}
    (h : fifoTrace (i :: is) s = some (taken, delivered, u)) :
    ∃ t taken' delivered', exec i s = .next t ∧ leavesStorageToBuffer i s ∧
      fifoTrace is t = some (taken', delivered', u) ∧
      taken = bytesTaken i s t ++ taken' ∧ delivered = bytesDelivered i t ++ delivered' := by
  cases hexec : exec i s with
  | fault | refused => simp [fifoTrace, hexec] at h
  | next t =>
    rw [fifoTrace, hexec] at h
    cases i with
    | cbInit => cases h
    | cbAppend ref n =>
      cases ref with
      | none => exact ⟨t, taken, delivered, rfl, trivial, h, rfl, rfl⟩
      | some a =>
        obtain ⟨⟨taken', delivered', u'⟩, hrun, heq⟩ := Option.map_eq_some_iff.1 h
        cases heq
        exact ⟨t, taken', delivered', rfl, trivial, hrun, by simp only [bytesTaken]; split <;> rfl, rfl⟩
    | cbConsume ref n =>
      cases ref with
      | none => exact ⟨t, taken, delivered, rfl, trivial, h, rfl, rfl⟩
      | some a =>
        obtain ⟨⟨taken', delivered', u'⟩, hrun, heq⟩ := Option.map_eq_some_iff.1 h
        cases heq
        exact ⟨t, taken', delivered', rfl, trivial, hrun, rfl, by simp only [bytesDelivered]; split <;> rfl⟩
    | encBuild ref n =>
      obtain ⟨hdis, hrun⟩ := (Option.ite_none_left_eq_some ..).1 h
      exact ⟨t, taken, delivered, rfl, hdis, hrun, rfl, rfl⟩
    | _ => exact ⟨t, taken, delivered, rfl, trivial, h, rfl, rfl⟩

/-- One command keeps the buffer invariant and moves bytes as a queue does: in at the tail, out at the head (R143,
R144). -/
theorem exec_content {i : Instr} {s t : State} (hinv : s.cb.inv) (hexec : exec i s = .next t)
    (hkeep : leavesStorageToBuffer i s) :
    t.cb.inv ∧ s.content ++ bytesTaken i s t = bytesDelivered i t ++ t.content := by
  have hsame : t.cb = s.cb ∧ t.content = s.content →
      t.cb.inv ∧ s.content ++ [] = [] ++ t.content := fun ⟨hcb, hcontent⟩ =>
    ⟨hcb ▸ hinv, by rw [hcontent, List.append_nil, List.nil_append]⟩
  cases i with
  | cbInit => exact hkeep.elim
  | cbAppend ref n =>
    obtain ⟨-, rfl⟩ | ⟨-, -, -, rfl⟩ | ⟨a, rfl, hv, hn, -, -, rfl⟩ := execCbAppend_cases hexec
    · cases ref <;> exact hsame ⟨rfl, rfl⟩
    · cases ref <;> exact hsame ⟨rfl, rfl⟩
    · exact ⟨cbAppendEffect_inv hinv hv hn a, (cbAppendEffect_content hinv hv hn a).symm⟩
  | cbConsume ref n =>
    obtain ⟨-, rfl⟩ | ⟨-, -, -, rfl⟩ | ⟨a, rfl, hv, hn, -, hdis, rfl⟩ := execCbConsume_cases hexec
    · cases ref <;> exact hsame ⟨rfl, rfl⟩
    · cases ref <;> exact hsame ⟨rfl, rfl⟩
    · refine ⟨cbConsumeEffect_inv hinv hv hn a, ?_⟩
      calc s.content ++ [] = s.content.take n.toNat ++ s.content.drop n.toNat := by
            rw [List.append_nil, List.take_append_drop]
        _ = (cbConsumeEffect a n s).mem.readAt (span a.toNat) n.toNat ++ (cbConsumeEffect a n s).content := by
            rw [cbConsumeEffect_readAt_span hn, cbConsumeEffect_content hinv hv hn hdis]
  | encBuild ref n => exact hsame (exec_encBuild_cb_content hexec hkeep)
  | _ =>
    obtain ⟨hcb, hmem⟩ := exec_cb_mem_of_op (by simp [Instr.op]) hexec
    exact hsame ⟨hcb, State.content_congr hcb fun _ _ => by rw [hmem]⟩

/-! ## Runs -/

theorem fifoTrace_content (is : List Instr) {s t : State} {taken delivered : List Byte} (hinv : s.cb.inv)
    (h : fifoTrace is s = some (taken, delivered, t)) : s.content ++ taken = delivered ++ t.content := by
  induction is generalizing s taken delivered with
  | nil =>
    cases h
    rw [List.append_nil, List.nil_append]
  | cons i is ih =>
    obtain ⟨m, taken', delivered', hexec, hkeep, hrun, rfl, rfl⟩ := fifoTrace_cons h
    obtain ⟨hinv', hstep⟩ := exec_content hinv hexec hkeep
    calc s.content ++ (bytesTaken i s m ++ taken')
        = bytesDelivered i m ++ (m.content ++ taken') := by rw [← List.append_assoc, hstep, List.append_assoc]
      _ = bytesDelivered i m ++ delivered' ++ t.content := by rw [ih hinv' hrun, List.append_assoc]

/-- Settles O27, by induction on the commands, one queue step each. A successful CB_INIT meets the invariant with no
content. -/
theorem bufferIsFirstInFirstOut : Obligations.BufferIsFirstInFirstOut := by
  refine ⟨fun is s t taken delivered hinv hrun => fifoTrace_content is hinv hrun,
    fun is s₀ s t a n taken delivered hn hinit hrun => ?_⟩
  have hn : n.toNat ≠ 0 := fun h => hn (BitVec.eq_of_toNat_eq h)
  obtain ⟨h, -⟩ | ⟨-, h, -⟩ | ⟨b, -, -, ha, rfl⟩ := execCbInit_cases (ref := some a) hinit
  · cases h
  · exact absurd h hn
  · have hinv : ((cbInitEffect b n s₀).setResponse .done).cb.inv := cbInitEffect_inv hn ha s₀
    simpa using (fifoTrace_content is hinv hrun).symm

end Sys2Proof.Machine
end

section
/-! SUPPORT. The frame encoder (42_encoder.md): what its four commands do to memory and to the registers. -/

namespace Sys2Proof.Machine

/-! ## Success (30_encoding.md R100) -/

@[simp] theorem State.succeeded_setResponse_error (s : State) (k : ErrorKind) :
    (s.setResponse (.error k)).succeeded = false :=
  beq_false_of_ne k.code_ne_zero

/-! ## ENC_INIT (R171) -/

theorem exec_encInit_of_short {n : Word} (hn : n.toNat < 10) (a : Word) (s : State) :
    exec (.encInit (some a) n) s = raise .bufferTooSmall s :=
  if_pos hn

theorem exec_encInit_of_admissible {a n : Word} (hn : 10 ≤ n.toNat) (ha : Admissible a n) (s : State) :
    exec (.encInit (some a) n) s = answer .done (s.setEnc { valid := true, base := a, cap := n, counter := 0 }) := by
  rw [exec, execEncInit, if_neg hn.not_gt, if_neg (not_not.mpr ha)]

/-- Settles O28, one clause for each way the command ends. -/
theorem encInitAttachesTheDestination : Obligations.EncInitAttachesTheDestination := fun s _ =>
  ⟨rfl, fun a => ⟨fun hn => exec_encInit_of_short hn a s, fun hn ha => exec_encInit_of_admissible hn ha s⟩⟩

/-! ## FRAME_SIZE (R173) -/

/-- Settles O30: the sum of 32-bit words is the sum modulo 2^32, and no size field comes near the modulus. -/
theorem frameSizeAddsTen : Obligations.FrameSizeAddsTen := fun _ _ => ⟨rfl, fun hn => Nat.mod_eq_of_lt (by omega)⟩

/-! ## ENC_SET_COUNTER (R174) -/

/-- Settles O31: of ENC_INIT's three ends only the last is a success, and it zeroes the counter. -/
theorem encSetCounterPresetsTheCounter : Obligations.EncSetCounterPresetsTheCounter := by
  refine ⟨fun s n => rfl, fun s t ref n hexec hok => ?_⟩
  obtain ⟨-, rfl⟩ | ⟨-, -, rfl⟩ | ⟨a, -, -, -, rfl⟩ := execEncInit_cases hexec
  · simp at hok
  · simp at hok
  · rfl

/-! ## ENC_BUILD (R172) -/

section Build

variable {s : State} {a n : Word}

theorem exec_encBuild_of_invalid (hv : s.enc.valid = false) (a n : Word) :
    exec (.encBuild (some a) n) s = raise .nullPointer s := by
  rw [exec, execEncBuild, if_pos (by simp [hv])]

theorem exec_encBuild_of_maxPayload_lt (hv : s.enc.valid = true) (hn : s.cfg.maxPayload.toNat < n.toNat) (a : Word) :
    exec (.encBuild (some a) n) s = raise .payloadTooLarge s := by
  rw [exec, execEncBuild, if_neg (not_not.mpr hv), if_pos hn]

theorem exec_encBuild_of_cap_lt (hv : s.enc.valid = true) (hn : n.toNat ≤ s.cfg.maxPayload.toNat)
    (hcap : s.enc.cap.toNat < n.toNat + 10) (a : Word) :
    exec (.encBuild (some a) n) s = raise .bufferTooSmall s := by
  rw [exec, execEncBuild, if_neg (not_not.mpr hv), if_neg hn.not_gt, if_pos hcap]

theorem exec_encBuild_of_fits (hv : s.enc.valid = true) (hn : n.toNat ≤ s.cfg.maxPayload.toNat)
    (hcap : n.toNat + 10 ≤ s.enc.cap.toNat) (ha : Admissible a n) (henc : Admissible s.enc.base s.enc.cap)
    (hdis : ¬ Overlap a.toNat n.toNat s.enc.base.toNat (n.toNat + 10)) :
    exec (.encBuild (some a) n) s = answer (.ok (n + 10) 0 0 0) (encBuildEffect a n s) := by
  rw [exec, execEncBuild, if_neg (not_not.mpr hv), if_neg hn.not_gt, if_neg hcap.not_gt,
    if_neg (not_or.mpr ⟨not_not.mpr ha, not_not.mpr henc⟩), if_neg hdis]

/-- The destination buffer begins with the frame. -/
theorem encBuildEffect_readAt_base (s : State) (a n : Word) :
    (encBuildEffect a n s).mem.readAt (span s.enc.base.toNat) (n.toNat + 10) =
      frameBytes s.cfg s.enc.counter (s.mem.readAt (span a.toNat) n.toNat) := by
  simpa [encBuildEffect] using Memory.readAt_writeAt_span s.mem s.enc.base.toNat
    (frameBytes s.cfg s.enc.counter (s.mem.readAt (span a.toNat) n.toNat))

theorem encBuildEffect_read_of_outside (s : State) (a : Word) {x : Nat}
    (hx : x < s.enc.base.toNat ∨ s.enc.base.toNat + n.toNat + 10 ≤ x) :
    (encBuildEffect a n s).mem.read x = s.mem.read x :=
  Memory.read_writeAt_span_of_outside _ _ _ x (by simpa [Nat.add_assoc] using hx)

end Build

/-- Settles O29: the four parts of the rule are the frame of the payload, stored as one region. -/
theorem encBuildWritesOneFrame : Obligations.EncBuildWritesOneFrame := by
  intro s n
  refine ⟨rfl, fun a => ⟨fun hv => exec_encBuild_of_invalid hv a n,
    fun hv hn => exec_encBuild_of_maxPayload_lt hv hn a, fun hv hn hcap => exec_encBuild_of_cap_lt hv hn hcap a,
    fun hv hn hcap ha henc hdis => ?_⟩⟩
  refine ⟨_, _, _, exec_encBuild_of_fits hv hn hcap ha henc hdis, rfl, rfl, ?_,
    fun x hx => encBuildEffect_read_of_outside s a hx, rfl, BitVec.toNat_add .., rfl, rfl, rfl, rfl, rfl, rfl, rfl, rfl⟩
  refine (encBuildEffect_readAt_base s a n).trans ?_
  rw [frameBytes, Memory.readAt_length, header6]

end Sys2Proof.Machine
end

section
/-! SUPPORT. The frame counter over a run of commands (42_encoder.md R175): the counter fields one command writes, what
one command does to the counter, and the runs `counterTrace` speaks of. -/

namespace Sys2Proof.Machine

/-! ## The counter field of a frame (30_encoding.md R81) -/

/-- The counter field stands in the first four bytes of a frame. -/
theorem rd16le_frameBytes_take_four (c : Config) (k : Half) (p : List Byte) :
    rd16le ((frameBytes c k p).take 4) 2 = k :=
  rd16le_le16 k []

/-- The frame in memory carries the counter ENC_BUILD found (R172). -/
theorem encBuildEffect_counter_field (s : State) (a n : Word) :
    rd16le ((encBuildEffect a n s).mem.readAt (span s.enc.base.toNat) 4) 2 = s.enc.counter := by
  rw [← Memory.readAt_take _ _ (show 4 ≤ n.toNat + 10 by omega), encBuildEffect_readAt_base,
    rd16le_frameBytes_take_four]

/-! ## One command -/

/-- The commands outside this unit leave its registers alone. -/
theorem exec_enc_of_op {i : Instr} {s t : State} (hop : i.op ∉ [.encInit, .encBuild, .encSetCounter])
    (h : exec i s = .next t) : t.enc = s.enc := by
  cases i with
  | encInit | encBuild | encSetCounter => simp [Instr.op] at hop
  | crc16 ref n => obtain ⟨-, rfl⟩ | ⟨a, -, -, rfl⟩ := execCrc16_cases h <;> rfl
  | cbInit ref n => obtain ⟨-, rfl⟩ | ⟨-, -, rfl⟩ | ⟨a, -, -, -, rfl⟩ := execCbInit_cases h <;> rfl
  | cbAppend ref n => obtain ⟨-, rfl⟩ | ⟨-, -, -, rfl⟩ | ⟨a, -, -, -, -, -, rfl⟩ := execCbAppend_cases h <;> rfl
  | cbConsume ref n => obtain ⟨-, rfl⟩ | ⟨-, -, -, rfl⟩ | ⟨a, -, -, -, -, -, rfl⟩ := execCbConsume_cases h <;> rfl
  | frameSize n => obtain rfl := execFrameSize_cases h; rfl
  | decode w => obtain ⟨-, rfl⟩ | ⟨W, -, -, ⟨k, -, rfl⟩ | ⟨f, -, rfl⟩⟩ := execDecode_cases h <;> rfl
  | scan w sink => obtain ⟨-, rfl⟩ | ⟨W, -, -, -, rfl⟩ := execScan_cases h <;> rfl
  | rdReg n => obtain ⟨-, rfl⟩ | ⟨r, -, rfl⟩ := execRdReg_cases h <;> rfl

/-- The counter field of the frame a command that ended in `t` wrote, if it wrote one (R175). -/
def countersWritten (i : Instr) (t : State) : List Half :=
  match i with
  | .encBuild _ _ => if t.succeeded then [rd16le (t.mem.readAt (span t.enc.base.toNat) 4) 2] else []
  | _ => []

/-- A run of `counterTrace` is a first command followed by a run. -/
theorem counterTrace_cons {i : Instr} {is : List Instr} {s u : State} {cs : List Half}
    (h : counterTrace (i :: is) s = some (cs, u)) :
    ∃ t cs', exec i s = .next t ∧ i.op ∉ [.encInit, .encSetCounter] ∧ counterTrace is t = some (cs', u) ∧
      cs = countersWritten i t ++ cs' := by
  cases hexec : exec i s with
  | fault | refused => simp [counterTrace, hexec] at h
  | next t =>
    rw [counterTrace, hexec] at h
    cases i with
    | encInit | encSetCounter => cases h
    | encBuild ref n =>
      obtain ⟨⟨cs', u'⟩, hrun, heq⟩ := Option.map_eq_some_iff.1 h
      cases heq
      exact ⟨t, cs', rfl, by simp [Instr.op], hrun, by simp only [countersWritten]; split <;> rfl⟩
    | _ => exact ⟨t, cs, rfl, by simp [Instr.op], h, rfl⟩

/-- A command writes no frame and keeps the counter, or writes one frame that carries it and moves to the next. -/
theorem exec_counter {i : Instr} {s t : State} (hop : i.op ∉ [.encInit, .encSetCounter]) (h : exec i s = .next t) :
    (countersWritten i t = [] ∧ t.enc.counter = s.enc.counter) ∨
    (countersWritten i t = [s.enc.counter] ∧ t.enc.counter = s.enc.counter + 1) := by
  cases i with
  | encInit | encSetCounter => simp [Instr.op] at hop
  | encBuild ref n =>
    obtain ⟨-, rfl⟩ | ⟨-, -, -, rfl⟩ | ⟨-, -, -, -, rfl⟩ | ⟨a, -, -, -, -, -, -, -, rfl⟩ := execEncBuild_cases h
    case inr.inr.inr => exact .inr ⟨congrArg ([·]) (encBuildEffect_counter_field s a n), rfl⟩
    all_goals exact .inl ⟨rfl, rfl⟩
  | _ => exact .inl ⟨rfl, by rw [exec_enc_of_op (by simp [Instr.op]) h]⟩

/-! ## Runs -/

/-- `m` consecutive counters from `k`, modulo 65536. -/
def consecutiveCounters (k : Half) (m : Nat) : List Half := (List.range m).map fun j => k + BitVec.ofNat 16 j

theorem consecutiveCounters_succ (k : Half) (m : Nat) :
    consecutiveCounters k (m + 1) = k :: consecutiveCounters (k + 1) m := by
  simp [consecutiveCounters, List.range_succ_eq_map, BitVec.ofNat_add, BitVec.add_assoc, BitVec.add_comm 1#16]

theorem counterTrace_consecutive (is : List Instr) {s t : State} {cs : List Half}
    (h : counterTrace is s = some (cs, t)) :
    cs = consecutiveCounters s.enc.counter cs.length ∧ t.enc.counter = s.enc.counter + BitVec.ofNat 16 cs.length := by
  induction is generalizing s cs with
  | nil =>
    cases h
    exact ⟨rfl, (BitVec.add_zero _).symm⟩
  | cons i is ih =>
    obtain ⟨m, cs', hexec, hop, hrun, rfl⟩ := counterTrace_cons h
    obtain ⟨hcs, hend⟩ := ih hrun
    obtain ⟨hnone, hkeep⟩ | ⟨hone, hnext⟩ := exec_counter hop hexec
    · rw [hnone, List.nil_append, ← hkeep]
      exact ⟨hcs, hend⟩
    · rw [hone, List.singleton_append, List.length_cons, consecutiveCounters_succ, ← hnext]
      refine ⟨congrArg _ hcs, ?_⟩
      rw [hend, hnext, BitVec.ofNat_add, BitVec.add_assoc, BitVec.add_comm 1]
      rfl

/-- Settles O32, by induction on the commands, one counter at most each; 65534 + 2 wraps to 0. -/
theorem countersAreConsecutive : Obligations.CountersAreConsecutive := by
  intro is s t cs h
  obtain ⟨hcs, hend⟩ := counterTrace_consecutive is h
  refine ⟨hcs, hend, fun hstart hlen => ?_⟩
  rw [hcs, hstart, hlen]
  rfl

end Sys2Proof.Machine
end

section
/-! SUPPORT. The frame decoder (43_decoder.md): the six steps of R201 as equations, which bytes they look at, what they
answer on a frame the encoder wrote, and the command DECODE. -/

namespace Sys2Proof.Machine

/-! ## The steps of the decoder (R201) -/

/-- Steps 1 to 3 of R201 pass: ten bytes are there, the preamble stands, the header checksum matches. -/
structure HeaderIntact (c : Config) (w : List Byte) : Prop where
  length : 10 ≤ w.length
  preamble0 : byteAt w 0 = c.preamble0
  preamble1 : byteAt w 1 = c.preamble1
  crc : crc16 c (w.take 6) = rd16le w 6

/-- How many bytes the candidate frame has by its own size field (R201 step 4). -/
def candidateSize (w : List Byte) : Nat := (rd16le w 4).toNat + 10

section Steps

variable {c : Config} {w : List Byte}

theorem decodeFrame_of_short (hlen : w.length < 10) : decodeFrame c w = .error .incompleteFrame :=
  if_pos hlen

theorem decodeFrame_of_preamble_ne (hlen : 10 ≤ w.length)
    (hpre : byteAt w 0 ≠ c.preamble0 ∨ byteAt w 1 ≠ c.preamble1) : decodeFrame c w = .error .invalidPreamble := by
  rw [decodeFrame, if_neg hlen.not_gt, if_pos hpre]

theorem decodeFrame_of_header_crc_ne (hlen : 10 ≤ w.length) (hpre0 : byteAt w 0 = c.preamble0)
    (hpre1 : byteAt w 1 = c.preamble1) (hcrc : crc16 c (w.take 6) ≠ rd16le w 6) :
    decodeFrame c w = .error .invalidHeaderCrc := by
  rw [decodeFrame, if_neg hlen.not_gt, if_neg (by simp [hpre0, hpre1]), if_pos hcrc]

/-- Behind an intact header the size field and the payload checksum decide. -/
theorem HeaderIntact.decodeFrame_eq (h : HeaderIntact c w) : decodeFrame c w =
    if w.length < candidateSize w then .error .incompleteFrame
    else if crc16 c ((w.drop 8).take (rd16le w 4).toNat) ≠ rd16le w (8 + (rd16le w 4).toNat) then
      .error .invalidPayloadCrc
    else .ok ⟨rd16le w 2, rd16le w 4, rd16le w 6, rd16le w (8 + (rd16le w 4).toNat)⟩ := by
  rw [decodeFrame, if_neg h.length.not_gt, if_neg (by simp [h.preamble0, h.preamble1]), if_neg (not_not.mpr h.crc)]
  rfl

/-- Everything the first three steps can do. -/
theorem decodeFrame_cases (c : Config) (w : List Byte) :
    (w.length < 10 ∧ decodeFrame c w = .error .incompleteFrame) ∨
    (10 ≤ w.length ∧ (byteAt w 0 ≠ c.preamble0 ∨ byteAt w 1 ≠ c.preamble1) ∧
      decodeFrame c w = .error .invalidPreamble) ∨
    (10 ≤ w.length ∧ byteAt w 0 = c.preamble0 ∧ byteAt w 1 = c.preamble1 ∧ crc16 c (w.take 6) ≠ rd16le w 6 ∧
      decodeFrame c w = .error .invalidHeaderCrc) ∨
    HeaderIntact c w := by
  by_cases hlen : w.length < 10
  · exact .inl ⟨hlen, decodeFrame_of_short hlen⟩
  have hlen := Nat.le_of_not_lt hlen
  by_cases hpre : byteAt w 0 = c.preamble0 ∧ byteAt w 1 = c.preamble1
  case neg => exact .inr (.inl ⟨hlen, not_and_or.mp hpre, decodeFrame_of_preamble_ne hlen (not_and_or.mp hpre)⟩)
  obtain ⟨hpre0, hpre1⟩ := hpre
  by_cases hcrc : crc16 c (w.take 6) = rd16le w 6
  · exact .inr (.inr (.inr ⟨hlen, hpre0, hpre1, hcrc⟩))
  · exact .inr (.inr (.inl ⟨hlen, hpre0, hpre1, hcrc, decodeFrame_of_header_crc_ne hlen hpre0 hpre1 hcrc⟩))

/-- Past an intact header, any answer but `IncompleteFrame` means that the whole candidate is there. -/
theorem HeaderIntact.candidateSize_le (h : HeaderIntact c w) (hd : decodeFrame c w ≠ .error .incompleteFrame) :
    candidateSize w ≤ w.length := by
  by_contra hlt
  exact hd (h.decodeFrame_eq.trans (if_pos (Nat.lt_of_not_le hlt)))

/-- A success reports the size field of the candidate, which is there as a whole. -/
theorem decodeFrame_ok_total {f : Frame} (h : decodeFrame c w = .ok f) :
    f.total = candidateSize w ∧ candidateSize w ≤ w.length := by
  obtain ⟨-, hd⟩ | ⟨-, -, hd⟩ | ⟨-, -, -, -, hd⟩ | hi := decodeFrame_cases c w
  · simp [hd] at h
  · simp [hd] at h
  · simp [hd] at h
  · refine ⟨?_, hi.candidateSize_le (by simp [h])⟩
    rw [hi.decodeFrame_eq] at h
    split at h
    · cases h
    · split at h
      · cases h
      · cases h
        rfl

end Steps

/-! ## The bytes a step looks at (R207) -/

section Agreement

variable {w w' : List Byte} {n : Nat}

theorem byteAt_eq_of_take_eq (h : w'.take n = w.take n) {i : Nat} (hi : i < n) : byteAt w' i = byteAt w i := by
  have hget := congrArg (·[i]?) h
  simp only [List.getElem?_take_of_lt hi] at hget
  simp [byteAt, List.getD, hget]

theorem rd16le_eq_of_take_eq (h : w'.take n = w.take n) {i : Nat} (hi : i + 1 < n) : rd16le w' i = rd16le w i := by
  rw [rd16le, rd16le, byteAt_eq_of_take_eq h hi, byteAt_eq_of_take_eq h (Nat.lt_of_succ_lt hi)]

theorem take_eq_of_take_eq (h : w'.take n = w.take n) {m : Nat} (hm : m ≤ n) : w'.take m = w.take m := by
  simpa [List.take_take, Nat.min_eq_left hm] using congrArg (List.take m) h

theorem take_drop_eq_of_take_eq (h : w'.take n = w.take n) {k m : Nat} (hm : k + m ≤ n) :
    (w'.drop k).take m = (w.drop k).take m := by
  rw [List.take_drop, List.take_drop, take_eq_of_take_eq h hm]

/-- Two windows decode alike when they agree on the first ten bytes and, should the header be intact, on the whole
candidate, and when the two tests of the length come out alike. -/
theorem decodeFrame_congr {c : Config} (hshort : w'.length < 10 ↔ w.length < 10) (hhead : w'.take 10 = w.take 10)
    (hrest : HeaderIntact c w → (w'.length < candidateSize w ↔ w.length < candidateSize w) ∧
      w'.take (candidateSize w) = w.take (candidateSize w)) :
    decodeFrame c w' = decodeFrame c w := by
  have hb0 : byteAt w' 0 = byteAt w 0 := byteAt_eq_of_take_eq hhead (by decide)
  have hb1 : byteAt w' 1 = byteAt w 1 := byteAt_eq_of_take_eq hhead (by decide)
  have h6 : w'.take 6 = w.take 6 := take_eq_of_take_eq hhead (by decide)
  have hr2 : rd16le w' 2 = rd16le w 2 := rd16le_eq_of_take_eq hhead (by decide)
  have hr4 : rd16le w' 4 = rd16le w 4 := rd16le_eq_of_take_eq hhead (by decide)
  have hr6 : rd16le w' 6 = rd16le w 6 := rd16le_eq_of_take_eq hhead (by decide)
  obtain ⟨hlen, hd⟩ | ⟨hlen, hpre, hd⟩ | ⟨hlen, hpre0, hpre1, hcrc, hd⟩ | hi := decodeFrame_cases c w
  · rw [hd, decodeFrame_of_short (hshort.mpr hlen)]
  · rw [hd, decodeFrame_of_preamble_ne (by omega) (by rwa [hb0, hb1])]
  · rw [hd, decodeFrame_of_header_crc_ne (by omega) (hb0.trans hpre0) (hb1.trans hpre1) (by rwa [h6, hr6])]
  · obtain ⟨htrunc, htake⟩ := hrest hi
    have hi' : HeaderIntact c w' :=
      ⟨by have := hi.length; omega, hb0.trans hi.preamble0, hb1.trans hi.preamble1, by rw [h6, hr6, hi.crc]⟩
    have hsize : candidateSize w' = candidateSize w := by rw [candidateSize, candidateSize, hr4]
    have hpay : (w'.drop 8).take (rd16le w 4).toNat = (w.drop 8).take (rd16le w 4).toNat :=
      take_drop_eq_of_take_eq htake (by rw [candidateSize]; omega)
    have hpcrc : rd16le w' (8 + (rd16le w 4).toNat) = rd16le w (8 + (rd16le w 4).toNat) :=
      rd16le_eq_of_take_eq htake (by rw [candidateSize]; omega)
    simp only [hi'.decodeFrame_eq, hi.decodeFrame_eq, hsize, htrunc, hr2, hr4, hr6, hpay, hpcrc]

theorem decodeFrame_congr_of_length_eq (c : Config) (hlen : w'.length = w.length)
    (h : w'.take (candidateSize w) = w.take (candidateSize w)) : decodeFrame c w' = decodeFrame c w :=
  decodeFrame_congr (by rw [hlen]) (take_eq_of_take_eq h (Nat.le_add_left 10 _)) fun _ => ⟨by rw [hlen], h⟩

theorem decodeFrame_congr_of_candidateSize_le (c : Config) (hw : candidateSize w ≤ w.length)
    (hw' : candidateSize w ≤ w'.length) (h : w'.take (candidateSize w) = w.take (candidateSize w)) :
    decodeFrame c w' = decodeFrame c w := by
  have h10 : 10 ≤ candidateSize w := Nat.le_add_left 10 _
  exact decodeFrame_congr (by omega) (take_eq_of_take_eq h h10) fun _ => ⟨by omega, h⟩

/-- Only `IncompleteFrame` can change when more bytes are supplied. -/
theorem decodeFrame_append {c : Config} (h : decodeFrame c w ≠ .error .incompleteFrame) (t : List Byte) :
    decodeFrame c (w ++ t) = decodeFrame c w := by
  have hlen : 10 ≤ w.length := by
    by_contra hlt
    exact h (decodeFrame_of_short (Nat.lt_of_not_le hlt))
  have hlen' : w.length ≤ (w ++ t).length := by simp
  refine decodeFrame_congr (by omega) (List.take_append_of_le_length hlen) fun hi => ?_
  have hsize : candidateSize w ≤ w.length := hi.candidateSize_le h
  exact ⟨by omega, List.take_append_of_le_length hsize⟩

end Agreement

/-! ## A frame the encoder wrote (R84, R206) -/

section RoundTrip

variable (c : Config) (k : Half) {p : List Byte}

theorem headerIntact_frameBytes : HeaderIntact c (frameBytes c k p) where
  length := by simp
  preamble0 := rfl
  preamble1 := rfl
  crc := by rw [frameBytes_take_six]; exact (rd16le_le16 _ []).symm

theorem rd16le_frameBytes_size : rd16le (frameBytes c k p) 4 = BitVec.ofNat 16 p.length := rd16le_le16 _ []

theorem rd16le_frameBytes_payload_crc : rd16le (frameBytes c k p) (8 + p.length) = crc16 c p :=
  (congrArg₂ (· ++ ·) (byteAt_frameBytes_payload_crc c k p 1) (byteAt_frameBytes_payload_crc c k p 0)).trans
    (rd16le_le16 _ [])

theorem decodeFrame_frameBytes (hp : p.length ≤ 65535) : decodeFrame c (frameBytes c k p) =
    .ok ⟨k, BitVec.ofNat 16 p.length, crc16 c (header6 c k (BitVec.ofNat 16 p.length)), crc16 c p⟩ := by
  have hsize : (BitVec.ofNat 16 p.length).toNat = p.length := Nat.mod_eq_of_lt (by omega)
  have hlen : ¬ (frameBytes c k p).length < candidateSize (frameBytes c k p) := by
    simp [candidateSize, rd16le_frameBytes_size, hsize]
  have hcounter : rd16le (frameBytes c k p) 2 = k := rd16le_le16 k []
  have hcrc := (headerIntact_frameBytes c k (p := p)).crc.symm
  rw [(headerIntact_frameBytes c k).decodeFrame_eq, if_neg hlen, hcounter, hcrc, frameBytes_take_six,
    rd16le_frameBytes_size, hsize, rd16le_frameBytes_payload_crc, frameBytes_drop_eight, List.take_left,
    if_neg (not_not.mpr rfl)]

end RoundTrip

/-- Settles O38: the decoder accepts the encoder's bytes, and what follows an accepted frame does not matter. -/
theorem decodeOfFrameBytes : Obligations.DecodeOfFrameBytes := by
  intro c k p t hp
  have hsize : (BitVec.ofNat 16 p.length).toNat = p.length := Nat.mod_eq_of_lt (by omega)
  have hd := decodeFrame_frameBytes c k hp
  refine ⟨_, (decodeFrame_append (by simp [hd]) t).trans hd, rfl, hsize, rfl, rfl, congrArg (· + 10) hsize, ?_⟩
  rw [List.drop_append_of_le_length (by simp), frameBytes_drop_eight, hsize, List.append_assoc, List.take_left]

/-- Settles O39: equal lengths, a whole candidate in both windows, or an answer that no further byte can change. -/
theorem decoderLooksAtOneFrameOnly : Obligations.DecoderLooksAtOneFrameOnly := by
  refine fun c w w' t => ⟨decodeFrame_congr_of_length_eq c, fun f hf hlen htake => ?_, fun k hk hne => ?_⟩
  · obtain ⟨htotal, hw⟩ := decodeFrame_ok_total hf
    rw [htotal] at hlen htake
    exact (decodeFrame_congr_of_candidateSize_le c hw hlen htake).trans hf
  · exact (decodeFrame_append (by simpa [hk] using hne) t).trans hk

/-- Settles O37: at size 0 the payload checksum is the checksum of no bytes. -/
theorem emptyPayloadIsChecked : Obligations.EmptyPayloadIsChecked := by
  intro c w hlen hpre0 hpre1 hcrc hsize
  have hi : HeaderIntact c w := ⟨hlen, hpre0, hpre1, hcrc⟩
  have hd : decodeFrame c w = if c.crcInit ≠ rd16le w 8 then .error .invalidPayloadCrc
      else .ok ⟨rd16le w 2, 0, rd16le w 6, rd16le w 8⟩ := by
    rw [hi.decodeFrame_eq, if_neg (by simpa [candidateSize, hsize] using hlen), hsize]
    rfl
  exact ⟨fun h => by rw [hd, if_neg (by simp [h]), h], fun h => by rw [hd, if_pos h.symm]⟩

/-! ## DECODE (R204) -/

section Decode

variable {o : WindowOp} {s : State} {W : Window}

theorem exec_decode_of_absent (h : windowOf o s = none) : exec (.decode o) s = raise .nullPointer s := by
  rw [exec, execDecode, h]

theorem exec_decode_of_error {k : ErrorKind} (hW : windowOf o s = some W) (ha : W.admissible = true)
    (hd : decodeFrame s.cfg (W.bytes s) = .error k) : exec (.decode o) s = raise k s := by
  simp only [exec, execDecode, hW, ha, hd, not_true_eq_false, if_false]

theorem exec_decode_of_ok {f : Frame} (hW : windowOf o s = some W) (ha : W.admissible = true)
    (hd : decodeFrame s.cfg (W.bytes s) = .ok f) :
    exec (.decode o) s = answer (frameRecord s W 0 f).response s := by
  simp only [exec, execDecode, hW, ha, hd, not_true_eq_false, if_false]

end Decode

/-- Settles O40, for each window kind one clause for each way the command ends. -/
theorem decodeAnswersTheCandidate : Obligations.DecodeAnswersTheCandidate := by
  refine fun s => ⟨fun n => exec_decode_of_absent rfl, fun hv => exec_decode_of_absent (by simp [windowOf, hv]),
    fun a n ha => ?_, fun hv => ?_⟩
  · have hadm : (Window.lin a n).admissible = true := decide_eq_true ha
    exact ⟨fun k => exec_decode_of_error rfl hadm, fun f => exec_decode_of_ok rfl hadm⟩
  · have hW : windowOf .cb s = some .cb := if_pos hv
    exact ⟨fun k => exec_decode_of_error hW rfl, fun f => exec_decode_of_ok hW rfl⟩

end Sys2Proof.Machine
end

section
/-! SUPPORT. The stream scanner (44_scanner.md): the errors a candidate can meet, and SCAN with an absent stream or
sink. -/

namespace Sys2Proof.Machine

/-! ## The errors at a candidate (R240) -/

theorem preambleAt_iff (c : Config) (w : List Byte) (q : Nat) : preambleAt c w q = true ↔
    q + 2 ≤ w.length ∧ byteAt w q = c.preamble0 ∧ byteAt w (q + 1) = c.preamble1 := by
  simp [preambleAt, and_assoc]

/-- Behind a preamble with room for a minimum frame, only the header checksum (R201 step 3) can fail before the header
is intact. -/
theorem header_crc_ne_or_headerIntact {c : Config} {w : List Byte} {p : Nat} (hpre : preambleAt c w p = true)
    (hroom : 10 ≤ w.length - p) :
    decodeFrame c (w.drop p) = .error .invalidHeaderCrc ∨ HeaderIntact c (w.drop p) := by
  obtain ⟨-, hp0, hp1⟩ := (preambleAt_iff c w p).mp hpre
  have hlen : 10 ≤ (w.drop p).length := by rwa [List.length_drop]
  have hpre0 : byteAt (w.drop p) 0 = c.preamble0 := (byteAt_drop w p 0).trans hp0
  have hpre1 : byteAt (w.drop p) 1 = c.preamble1 := (byteAt_drop w p 1).trans hp1
  by_cases hcrc : crc16 c ((w.drop p).take 6) = rd16le (w.drop p) 6
  · exact .inr ⟨hlen, hpre0, hpre1, hcrc⟩
  · exact .inl (decodeFrame_of_header_crc_ne hlen hpre0 hpre1 hcrc)

/-- Past an intact header a candidate fails in step 4 or in step 5 of R201. -/
theorem HeaderIntact.error_cases {c : Config} {w : List Byte} {k : ErrorKind} (h : HeaderIntact c w)
    (hd : decodeFrame c w = .error k) :
    (k = .incompleteFrame ∧ w.length < candidateSize w) ∨ k = .invalidPayloadCrc := by
  rw [h.decodeFrame_eq] at hd
  split at hd
  · cases hd
    exact .inl ⟨rfl, ‹_›⟩
  · split at hd
    · cases hd
      exact .inr rfl
    · cases hd

/-- Settles O46: a header checksum that fails, or an intact header and then step 4 or step 5 of the decoder. -/
theorem scannerMeetsThreeErrorsOnly : Obligations.ScannerMeetsThreeErrorsOnly := by
  intro c w p k hpre hroom hd
  obtain hcrc | hi := header_crc_ne_or_headerIntact hpre hroom
  · exact .inl (Except.error.inj (hd.symm.trans hcrc))
  · obtain ⟨hk, hshort⟩ | hk := hi.error_cases hd
    · exact .inr (.inr ⟨hk, hi.crc, List.length_drop (l := w) ▸ hshort⟩)
    · exact .inr (.inl hk)

/-! ## SCAN of nothing (R235) -/

/-- Without a stream or without a sink SCAN marks the scanner registers and answers 0. -/
theorem exec_scan_of_absent {o : WindowOp} {sink : Bool} {s : State} (h : windowOf o s = none ∨ sink = false) :
    exec (.scan o sink) s = answer .done (s.setSc { cursor := 0, count := 0, stop := .absent }) := by
  rw [exec, execScan]
  cases hW : windowOf o s with
  | none => rfl
  | some W =>
    have hsink : sink = false := h.resolve_left (by simp [hW])
    exact if_pos (by simp [hsink])

/-- Settles O42: an absent reference or a buffer without storage names no window. -/
theorem scanOfNothingIsSilent : Obligations.ScanOfNothingIsSilent := by
  rintro s w sink (⟨n, rfl⟩ | ⟨rfl, hv⟩ | hsink)
  · exact exec_scan_of_absent (.inl rfl)
  · exact exec_scan_of_absent (.inl (by simp [windowOf, hv]))
  · exact exec_scan_of_absent (.inr hsink)

end Sys2Proof.Machine
end

section
/-! SUPPORT. The system command RD_REG (45_system.md R260), and the parameters no command changes (10_state.md R31). -/

namespace Sys2Proof.Machine

/-! ## Register values by arithmetic (10_state.md R30, R31) -/

/-- Two fields in one register: the low one, and the high one at the weight of its lowest bit. -/
theorem setWidth_append_eq_ofNat {m n : Nat} (hi : BitVec m) (lo : BitVec n) (k : Nat) :
    (hi ++ lo).setWidth k = BitVec.ofNat k (lo.toNat + 2 ^ n * hi.toNat) := by
  rw [← BitVec.ofNat_toNat, BitVec.toNat_append, ← Nat.shiftLeft_add_eq_or_of_lt lo.isLt, Nat.shiftLeft_eq, Nat.mul_comm,
    Nat.add_comm]

/-- `CFG_PREAMBLE`: byte 0 in bits 7 to 0, byte 1 in bits 15 to 8. -/
theorem regValue_cfgPreamble (s : State) : regValue .cfgPreamble s =
    BitVec.ofNat 32 (s.cfg.preamble0.toNat + 256 * s.cfg.preamble1.toNat) :=
  setWidth_append_eq_ofNat s.cfg.preamble1 s.cfg.preamble0 32

/-- `CFG_CRC`: the polynomial in bits 15 to 0, the initial value in bits 31 to 16. -/
theorem regValue_cfgCrc (s : State) : regValue .cfgCrc s =
    BitVec.ofNat 32 (s.cfg.crcPoly.toNat + 65536 * s.cfg.crcInit.toNat) :=
  (BitVec.setWidth_eq _).symm.trans (setWidth_append_eq_ofNat s.cfg.crcInit s.cfg.crcPoly 32)

/-! ## RD_REG (R260) -/

/-- The register numbers are distinct: each finds its own register. -/
@[simp] theorem Reg.ofNumber?_number (r : Reg) : Reg.ofNumber? r.number = some r := by cases r <;> rfl

theorem exec_rdReg_number (r : Reg) (s : State) :
    exec (.rdReg r.number) s = answer (.ok (regValue r s) 0 0 0) s := by
  rw [exec, execRdReg, Reg.ofNumber?_number]

theorem exec_rdReg_of_unlisted {n : Word} (h : Reg.ofNumber? n = none) (s : State) :
    exec (.rdReg n) s = illegalCommand s := by
  rw [exec, execRdReg, h]

/-! ## What no command changes -/

/-- No command changes a parameter (R31) or takes an input the host has still to present. -/
theorem exec_cfg_inputs {i : Instr} {s t : State} (h : exec i s = .next t) :
    t.cfg = s.cfg ∧ t.inputs = s.inputs := by
  cases i with
  | crc16 ref n => obtain ⟨-, rfl⟩ | ⟨a, -, -, rfl⟩ := execCrc16_cases h <;> exact ⟨rfl, rfl⟩
  | cbInit ref n => obtain ⟨-, rfl⟩ | ⟨-, -, rfl⟩ | ⟨a, -, -, -, rfl⟩ := execCbInit_cases h <;> exact ⟨rfl, rfl⟩
  | cbAppend ref n =>
    obtain ⟨-, rfl⟩ | ⟨-, -, -, rfl⟩ | ⟨a, -, -, -, -, -, rfl⟩ := execCbAppend_cases h <;> exact ⟨rfl, rfl⟩
  | cbConsume ref n =>
    obtain ⟨-, rfl⟩ | ⟨-, -, -, rfl⟩ | ⟨a, -, -, -, -, -, rfl⟩ := execCbConsume_cases h <;> exact ⟨rfl, rfl⟩
  | encInit ref n => obtain ⟨-, rfl⟩ | ⟨-, -, rfl⟩ | ⟨a, -, -, -, rfl⟩ := execEncInit_cases h <;> exact ⟨rfl, rfl⟩
  | encBuild ref n =>
    obtain ⟨-, rfl⟩ | ⟨-, -, -, rfl⟩ | ⟨-, -, -, -, rfl⟩ | ⟨a, -, -, -, -, -, -, -, rfl⟩ := execEncBuild_cases h <;>
      exact ⟨rfl, rfl⟩
  | frameSize n => obtain rfl := execFrameSize_cases h; exact ⟨rfl, rfl⟩
  | encSetCounter n => obtain rfl := execEncSetCounter_cases h; exact ⟨rfl, rfl⟩
  | decode w =>
    obtain ⟨-, rfl⟩ | ⟨W, -, -, ⟨k, -, rfl⟩ | ⟨f, -, rfl⟩⟩ := execDecode_cases h <;> exact ⟨rfl, rfl⟩
  | scan w sink => obtain ⟨-, rfl⟩ | ⟨W, -, -, -, rfl⟩ := execScan_cases h <;> exact ⟨rfl, rfl⟩
  | rdReg n => obtain ⟨-, rfl⟩ | ⟨r, -, rfl⟩ := execRdReg_cases h <;> exact ⟨rfl, rfl⟩

/-- Settles O53: the list pairs the number of every register with its value. -/
theorem rdRegAnswersTheRegister : Obligations.RdRegAnswersTheRegister := by
  intro s
  refine ⟨?_, fun n hn => ?_, fun i t h => (exec_cfg_inputs h).1⟩
  · have hread : ∀ p ∈ Reg.all.map fun r => (r.number, regValue r s),
        exec (.rdReg p.1) s = answer (.ok p.2 0 0 0) s :=
      List.forall_mem_map.2 fun r _ => exec_rdReg_number r s
    simp only [BitVec.ofNat_toNat, ← regValue_cfgPreamble, ← regValue_cfgCrc]
    exact hread
  · have hnone : Reg.ofNumber? n = none := by rwa [← Reg.ofNumber?_isSome_iff, Option.not_isSome_iff_eq_none] at hn
    exact exec_rdReg_of_unlisted hnone s

end Sys2Proof.Machine
end

section
/-! SUPPORT. Errors and their exact conditions (60_exceptions.md R282 to R290): when the decoder reports each of its
errors, every way a command can end, and which errors each command reports. -/

namespace Sys2Proof.Machine

/-! ## The decoder's errors (R286 to R289) -/

section DecoderErrors

variable {c : Config} {w : List Byte} {k : ErrorKind}

theorem HeaderIntact.decodeFrame_eq_incompleteFrame_iff (h : HeaderIntact c w) :
    decodeFrame c w = .error .incompleteFrame ↔ w.length < candidateSize w := by
  rw [h.decodeFrame_eq]
  split
  next hshort => simp [hshort]
  next hroom => split <;> simp [hroom]

theorem HeaderIntact.decodeFrame_eq_invalidPayloadCrc_iff (h : HeaderIntact c w) :
    decodeFrame c w = .error .invalidPayloadCrc ↔ candidateSize w ≤ w.length ∧
      crc16 c ((w.drop 8).take (rd16le w 4).toNat) ≠ rd16le w (8 + (rd16le w 4).toNat) := by
  rw [h.decodeFrame_eq]
  split
  next hshort => simp [hshort.not_ge]
  next hroom =>
    split
    next hcrc => simp [Nat.le_of_not_lt hroom, hcrc]
    next hcrc => simp [not_not.mp hcrc]

/-- Past an intact header neither the preamble nor the header checksum is reported. -/
theorem HeaderIntact.decodeFrame_ne_error (h : HeaderIntact c w) (hk : k ∈ [.invalidPreamble, .invalidHeaderCrc]) :
    decodeFrame c w ≠ .error k := by
  intro hd
  obtain ⟨rfl, -⟩ | rfl := h.error_cases hd <;> exact absurd hk (by decide)

/-- The decoder reports the four errors of R201's steps and no other. -/
theorem decodeFrame_error_mem (hd : decodeFrame c w = .error k) :
    k ∈ [.incompleteFrame, .invalidPreamble, .invalidHeaderCrc, .invalidPayloadCrc] := by
  obtain ⟨-, he⟩ | ⟨-, -, he⟩ | ⟨-, -, -, -, he⟩ | hi := decodeFrame_cases c w
  case inr.inr.inr => obtain ⟨rfl, -⟩ | rfl := hi.error_cases hd <;> decide
  all_goals cases he.symm.trans hd; decide

end DecoderErrors

/-- Settles O35: one of the first three steps answers, or the header is intact and the size field and the payload
checksum decide. -/
theorem decoderErrorsAtTheirExactConditions : Obligations.DecoderErrorsAtTheirExactConditions := by
  intro c w
  obtain ⟨hlen, hd⟩ | ⟨hlen, hpre, hd⟩ | ⟨hlen, hpre0, hpre1, hcrc, hd⟩ | hi := decodeFrame_cases c w
  · simp [hd, hlen, hlen.not_ge]
  · have hpre' : byteAt w 0 = c.preamble0 → byteAt w 1 ≠ c.preamble1 := fun h0 => hpre.resolve_left (not_not.mpr h0)
    simp +contextual [hd, hlen, hlen.not_gt, hpre, hpre']
  · simp [hd, hlen, hlen.not_gt, hpre0, hpre1, hcrc]
  · simp [hi.decodeFrame_eq_incompleteFrame_iff, hi.decodeFrame_eq_invalidPayloadCrc_iff, hi.decodeFrame_ne_error,
      candidateSize, hi.length, hi.length.not_gt, hi.preamble0, hi.preamble1, hi.crc]

/-! ## How a command ends (R290) -/

/-- The ends of a command begun in `s`: an error or an illegal command, which only answer, or a success. -/
inductive CommandEnd (s : State) : State → Prop
  | error (k : ErrorKind) : CommandEnd s (s.setResponse (.error k))
  | illegal : CommandEnd s (s.setResponse .illegal)
  | ok (u : State) (r0 r1 r2 r3 : Word) : CommandEnd s (u.setResponse (.ok r0 r1 r2 r3))

/-- Every command that ends does so in one of the three ways. -/
theorem commandEnd_of_exec {i : Instr} {s t : State} (h : exec i s = .next t) : CommandEnd s t := by
  cases i with
  | crc16 ref n =>
    obtain ⟨-, rfl⟩ | ⟨a, -, -, rfl⟩ := execCrc16_cases h
    exacts [.error _, .ok ..]
  | cbInit ref n =>
    obtain ⟨-, rfl⟩ | ⟨-, -, rfl⟩ | ⟨a, -, -, -, rfl⟩ := execCbInit_cases h
    exacts [.error _, .error _, .ok ..]
  | cbAppend ref n =>
    obtain ⟨-, rfl⟩ | ⟨-, -, -, rfl⟩ | ⟨a, -, -, -, -, -, rfl⟩ := execCbAppend_cases h
    exacts [.error _, .error _, .ok ..]
  | cbConsume ref n =>
    obtain ⟨-, rfl⟩ | ⟨-, -, -, rfl⟩ | ⟨a, -, -, -, -, -, rfl⟩ := execCbConsume_cases h
    exacts [.error _, .error _, .ok ..]
  | encInit ref n =>
    obtain ⟨-, rfl⟩ | ⟨-, -, rfl⟩ | ⟨a, -, -, -, rfl⟩ := execEncInit_cases h
    exacts [.error _, .error _, .ok ..]
  | encBuild ref n =>
    obtain ⟨-, rfl⟩ | ⟨-, -, -, rfl⟩ | ⟨-, -, -, -, rfl⟩ | ⟨a, -, -, -, -, -, -, -, rfl⟩ := execEncBuild_cases h
    exacts [.error _, .error _, .error _, .ok ..]
  | frameSize n => obtain rfl := execFrameSize_cases h; exact .ok ..
  | encSetCounter n => obtain rfl := execEncSetCounter_cases h; exact .ok ..
  | decode w =>
    obtain ⟨-, rfl⟩ | ⟨W, -, -, ⟨k, -, rfl⟩ | ⟨f, -, rfl⟩⟩ := execDecode_cases h
    exacts [.error _, .error _, .ok ..]
  | scan w sink =>
    obtain ⟨-, rfl⟩ | ⟨W, -, -, -, rfl⟩ := execScan_cases h
    exacts [.ok .., .ok ..]
  | rdReg n =>
    obtain ⟨-, rfl⟩ | ⟨r, -, rfl⟩ := execRdReg_cases h
    exacts [.illegal, .ok ..]

/-- Settles O14: of the three ends only a success changes more than the response, and its `STATUS` is 0. -/
theorem errorLeavesNoTrace : Obligations.ErrorLeavesNoTrace := by
  intro i s t h
  cases commandEnd_of_exec h with
  | error k => exact ⟨.error k, rfl, fun _ => ⟨rfl, rfl, rfl, rfl, rfl, rfl, rfl, rfl, rfl, rfl, rfl⟩⟩
  | illegal => exact ⟨.illegal, rfl, fun _ => ⟨rfl, rfl, rfl, rfl, rfl, rfl, rfl, rfl, rfl, rfl, rfl⟩⟩
  | ok u r0 r1 r2 r3 => exact ⟨.ok r0 r1 r2 r3, rfl, fun hne => absurd rfl hne⟩

/-! ## The errors of each command (R282 to R285, in the order of R292) -/

section Fails

variable {s u : State} {ref : Ref} {n : Word} {k l : ErrorKind}

theorem State.eq_of_setResponse_eq {r q : Response} (h : s.setResponse r = u.setResponse q) : r = q :=
  Option.some.inj (congrArg State.response h)

theorem State.eq_of_setResponse_error_eq (h : s.setResponse (.error k) = u.setResponse (.error l)) : k = l :=
  Response.error_inj.1 (State.eq_of_setResponse_eq h)

theorem State.setResponse_error_ne_ok {r0 r1 r2 r3 : Word} :
    s.setResponse (.error k) ≠ u.setResponse (.ok r0 r1 r2 r3) :=
  fun h => Response.ok_ne_error r0 r1 r2 r3 k (State.eq_of_setResponse_eq h).symm

theorem fails_crc16_iff : Fails (.crc16 ref n) s k ↔ k = .nullPointer ∧ ref = none := by
  refine ⟨fun h => ?_, ?_⟩
  · obtain ⟨href, ht⟩ | ⟨a, -, -, ht⟩ := execCrc16_cases h
    · exact ⟨State.eq_of_setResponse_error_eq ht, href⟩
    · exact (State.setResponse_error_ne_ok ht).elim
  · rintro ⟨rfl, rfl⟩
    exact exec_crc16_none n s

theorem fails_cbInit_iff : Fails (.cbInit ref n) s k ↔
    (k = .nullPointer ∧ ref = none) ∨ (k = .bufferTooSmall ∧ ref.isSome ∧ n = 0) := by
  refine ⟨fun h => ?_, ?_⟩
  · obtain ⟨href, ht⟩ | ⟨href, hn, ht⟩ | ⟨a, -, -, -, ht⟩ := execCbInit_cases h
    · exact .inl ⟨State.eq_of_setResponse_error_eq ht, href⟩
    · exact .inr ⟨State.eq_of_setResponse_error_eq ht, href, BitVec.eq_of_toNat_eq hn⟩
    · exact (State.setResponse_error_ne_ok ht).elim
  · rintro (⟨rfl, rfl⟩ | ⟨rfl, href, rfl⟩)
    · rfl
    · obtain ⟨a, rfl⟩ := Option.isSome_iff_exists.1 href
      rfl

theorem fails_cbAppend_iff : Fails (.cbAppend ref n) s k ↔
    (k = .nullPointer ∧ (ref = none ∨ s.cb.valid = false)) ∨
    (k = .insufficientSpace ∧ ref.isSome ∧ s.cb.valid = true ∧ s.cb.free.toNat < n.toNat) := by
  refine ⟨fun h => ?_, fun h => ?_⟩
  · obtain ⟨hnull, ht⟩ | ⟨href, hv, hn, ht⟩ | ⟨a, -, -, -, -, -, ht⟩ := execCbAppend_cases h
    · exact .inl ⟨State.eq_of_setResponse_error_eq ht, hnull⟩
    · exact .inr ⟨State.eq_of_setResponse_error_eq ht, href, hv, hn⟩
    · exact (State.setResponse_error_ne_ok ht).elim
  · cases ref with
    | none =>
      obtain ⟨rfl, -⟩ | ⟨-, ⟨⟩, -⟩ := h
      rfl
    | some a =>
      obtain ⟨rfl, hv⟩ | ⟨rfl, -, hv, hn⟩ := h
      · exact exec_cbAppend_of_invalid (hv.resolve_left nofun) a n
      · exact exec_cbAppend_of_free_lt hv hn a

theorem fails_cbConsume_iff : Fails (.cbConsume ref n) s k ↔
    (k = .nullPointer ∧ (ref = none ∨ s.cb.valid = false)) ∨
    (k = .insufficientSpace ∧ ref.isSome ∧ s.cb.valid = true ∧ s.occupied < n.toNat) := by
  refine ⟨fun h => ?_, fun h => ?_⟩
  · obtain ⟨hnull, ht⟩ | ⟨href, hv, hn, ht⟩ | ⟨a, -, -, -, -, -, ht⟩ := execCbConsume_cases h
    · exact .inl ⟨State.eq_of_setResponse_error_eq ht, hnull⟩
    · exact .inr ⟨State.eq_of_setResponse_error_eq ht, href, hv, hn⟩
    · exact (State.setResponse_error_ne_ok ht).elim
  · cases ref with
    | none =>
      obtain ⟨rfl, -⟩ | ⟨-, ⟨⟩, -⟩ := h
      rfl
    | some a =>
      obtain ⟨rfl, hv⟩ | ⟨rfl, -, hv, hn⟩ := h
      · exact exec_cbConsume_of_invalid (hv.resolve_left nofun) a n
      · exact exec_cbConsume_of_occupied_lt hv hn a

theorem fails_encInit_iff : Fails (.encInit ref n) s k ↔
    (k = .nullPointer ∧ ref = none) ∨ (k = .bufferTooSmall ∧ ref.isSome ∧ n.toNat < 10) := by
  refine ⟨fun h => ?_, ?_⟩
  · obtain ⟨href, ht⟩ | ⟨href, hn, ht⟩ | ⟨a, -, -, -, ht⟩ := execEncInit_cases h
    · exact .inl ⟨State.eq_of_setResponse_error_eq ht, href⟩
    · exact .inr ⟨State.eq_of_setResponse_error_eq ht, href, hn⟩
    · exact (State.setResponse_error_ne_ok ht).elim
  · rintro (⟨rfl, rfl⟩ | ⟨rfl, href, hn⟩)
    · rfl
    · obtain ⟨a, rfl⟩ := Option.isSome_iff_exists.1 href
      exact exec_encInit_of_short hn a s

theorem fails_encBuild_iff : Fails (.encBuild ref n) s k ↔
    (k = .nullPointer ∧ (ref = none ∨ s.enc.valid = false)) ∨
    (k = .payloadTooLarge ∧ ref.isSome ∧ s.enc.valid = true ∧ s.cfg.maxPayload.toNat < n.toNat) ∨
    (k = .bufferTooSmall ∧ ref.isSome ∧ s.enc.valid = true ∧ n.toNat ≤ s.cfg.maxPayload.toNat ∧
      s.enc.cap.toNat < n.toNat + 10) := by
  refine ⟨fun h => ?_, fun h => ?_⟩
  · obtain ⟨hnull, ht⟩ | ⟨href, hv, hn, ht⟩ | ⟨href, hv, hn, hcap, ht⟩ | ⟨a, -, -, -, -, -, -, -, ht⟩ :=
      execEncBuild_cases h
    · exact .inl ⟨State.eq_of_setResponse_error_eq ht, hnull⟩
    · exact .inr (.inl ⟨State.eq_of_setResponse_error_eq ht, href, hv, hn⟩)
    · exact .inr (.inr ⟨State.eq_of_setResponse_error_eq ht, href, hv, hn, hcap⟩)
    · exact (State.setResponse_error_ne_ok ht).elim
  · cases ref with
    | none =>
      obtain ⟨rfl, -⟩ | ⟨-, ⟨⟩, -⟩ | ⟨-, ⟨⟩, -⟩ := h
      rfl
    | some a =>
      obtain ⟨rfl, hv⟩ | ⟨rfl, -, hv, hn⟩ | ⟨rfl, -, hv, hn, hcap⟩ := h
      · exact exec_encBuild_of_invalid (hv.resolve_left nofun) a n
      · exact exec_encBuild_of_maxPayload_lt hv hn a
      · exact exec_encBuild_of_cap_lt hv hn hcap a

theorem not_fails_frameSize : ¬ Fails (.frameSize n) s k := fun h =>
  State.setResponse_error_ne_ok (execFrameSize_cases h)

theorem not_fails_encSetCounter : ¬ Fails (.encSetCounter n) s k := fun h =>
  State.setResponse_error_ne_ok (execEncSetCounter_cases h)

/-- DECODE reports an absent window, or what the decoder reports of the bytes in it. -/
theorem fails_decode_iff {w : WindowOp} : Fails (.decode w) s k ↔
    (k = .nullPointer ∧ windowOf w s = none) ∨
    (∃ W, windowOf w s = some W ∧ W.admissible = true ∧ decodeFrame s.cfg (W.bytes s) = .error k) := by
  refine ⟨fun h => ?_, ?_⟩
  · obtain ⟨hw, ht⟩ | ⟨W, hW, ha, ⟨l, hd, ht⟩ | ⟨f, -, ht⟩⟩ := execDecode_cases h
    · exact .inl ⟨State.eq_of_setResponse_error_eq ht, hw⟩
    · exact .inr ⟨W, hW, ha, State.eq_of_setResponse_error_eq ht ▸ hd⟩
    · exact (State.setResponse_error_ne_ok ht).elim
  · rintro (⟨rfl, hw⟩ | ⟨W, hW, ha, hd⟩)
    · exact exec_decode_of_absent hw
    · exact exec_decode_of_error hW ha hd

/-- Outside the decoder's own errors, DECODE reports an absent window only. -/
theorem fails_decode_iff_of_not_mem {w : WindowOp}
    (hk : k ∉ [.incompleteFrame, .invalidPreamble, .invalidHeaderCrc, .invalidPayloadCrc]) :
    Fails (.decode w) s k ↔ k = .nullPointer ∧ windowOf w s = none :=
  fails_decode_iff.trans (or_iff_left fun ⟨_, _, _, hd⟩ => hk (decodeFrame_error_mem hd))

theorem not_fails_scan {w : WindowOp} {sink : Bool} : ¬ Fails (.scan w sink) s k := fun h => by
  obtain ⟨-, ht⟩ | ⟨W, -, -, -, ht⟩ := execScan_cases h
  · exact State.setResponse_error_ne_ok ht
  · exact State.setResponse_error_ne_ok ht

/-- RD_REG of an unlisted number is an illegal command, which is no error kind. -/
theorem not_fails_rdReg : ¬ Fails (.rdReg n) s k := fun h => by
  obtain ⟨-, ht⟩ | ⟨r, -, ht⟩ := execRdReg_cases h
  · exact Response.illegal_ne_error k (State.eq_of_setResponse_eq ht).symm
  · exact State.setResponse_error_ne_ok ht

end Fails

/-- Settles O13: the conditions under which each command fails, read off for each of the four error kinds. -/
theorem errorsAtTheirExactConditions : Obligations.ErrorsAtTheirExactConditions := by
  intro i s
  cases i with
  | crc16 ref n => simp [fails_crc16_iff]
  | cbInit ref n => simp [fails_cbInit_iff]
  | cbAppend ref n => simp [fails_cbAppend_iff]
  | cbConsume ref n => simp [fails_cbConsume_iff, State.occupied]
  | encInit ref n => simp [fails_encInit_iff]
  | encBuild ref n => simp [fails_encBuild_iff, or_comm]
  | frameSize n => simp [not_fails_frameSize]
  | encSetCounter n => simp [not_fails_encSetCounter]
  | decode w =>
    cases w with
    | lin ref n => cases ref <;> simp [fails_decode_iff_of_not_mem, windowOf]
    | cb => simp [fails_decode_iff_of_not_mem, windowOf]
  | scan w sink => simp [not_fails_scan]
  | rdReg n => simp [not_fails_rdReg]

end Sys2Proof.Machine
end

section
/-! SUPPORT. The reset input (70_reset_and_hazards.md R320, R321): the reset values meet the invariants because nothing
is initialised. -/

namespace Sys2Proof.Machine

/-- No storage is in use, so only R23's clause for `CB_VALID` = 0 says anything: all zero. -/
theorem State.reset_cb_inv : State.reset.cb.inv :=
  ⟨Nat.le_refl 0, fun hvalid => absurd hvalid Bool.false_ne_true, fun _ => ⟨rfl, rfl, rfl, rfl, rfl⟩⟩

/-- No destination is in use, so only R25's clause for `ENC_VALID` = 0 says anything: all zero. -/
theorem State.reset_enc_inv : State.reset.enc.inv :=
  ⟨fun hvalid => absurd hvalid Bool.false_ne_true, fun _ => ⟨rfl, rfl⟩⟩

/-- Settles O8: the register groups are those of the reset state, which meets both invariants; the rest is kept. -/
theorem resetSetsEveryRegister : Obligations.ResetSetsEveryRegister := by
  intro s
  rw [applyReset_cb, applyReset_enc, applyReset_sc]
  exact ⟨rfl, rfl, rfl, applyReset_cfg s, applyReset_mem s, State.reset_cb_inv, State.reset_enc_inv⟩

end Sys2Proof.Machine
end

section
/-! SUPPORT. The stream scanner's rows (44_scanner.md R233): what every row keeps, how many rows are left, and which
states a scan reaches from which. -/

namespace Sys2Proof.Machine

/-! ## What every row keeps (R234, R237) -/

/-- The cursor stays within the stream, the count is that of the frames found, each of which took ten bytes at least,
and a finished scan names its stop reason. -/
structure ScanRun.Bounded (w : List Byte) (r : ScanRun) : Prop where
  cursor_le : r.cursor ≤ w.length
  candidate_room : r.phase = .candidate → r.cursor + 2 ≤ w.length
  count_eq : r.count = r.hits.length
  consumed : 10 * r.count ≤ r.cursor
  stopped : r.phase = .done → r.stop = .noPreamble ∨ r.stop = .tooShort ∨ r.stop = .incomplete

theorem scanStart_bounded (w : List Byte) : scanStart.Bounded w :=
  ⟨Nat.zero_le _, nofun, rfl, le_rfl, nofun⟩

theorem Frame.ten_le_total (f : Frame) : 10 ≤ f.total := Nat.le_add_left 10 _

/-- A frame found at `p` ends within the stream. -/
theorem add_total_le_length {c : Config} {w : List Byte} {p : Nat} {f : Frame} (h : decodeFrame c (w.drop p) = .ok f) :
    p + f.total ≤ w.length := by
  obtain ⟨htotal, hle⟩ := decodeFrame_ok_total h
  have hten := f.ten_le_total
  rw [← htotal, List.length_drop] at hle
  omega

section Rows

variable {c : Config} {w : List Byte} {r : ScanRun}

theorem scanTick_bounded (h : r.Bounded w) : (scanTick c w r).Bounded w := by
  obtain ⟨hcur, hroom, hcount, hten, hstop⟩ := h
  obtain ⟨-, -, ht⟩ | ⟨-, hlen, -, ht⟩ | ⟨hp, hlen, -, ht⟩ | ⟨-, -, ht⟩ | ⟨-, -, f, hf, ht⟩ | ⟨-, -, -, ht⟩ |
    ⟨hp, -, -, ht⟩ | ⟨-, ht⟩ := scanTick_cases c w r <;> rw [ht]
  · exact ⟨hcur, nofun, hcount, hten, fun _ => .inl rfl⟩
  · exact ⟨hcur, fun _ => hlen, hcount, hten, nofun⟩
  · exact ⟨Nat.le_of_succ_le hlen, fun h => (nomatch hp.symm.trans h), hcount, Nat.le_succ_of_le hten,
      fun h => (nomatch hp.symm.trans h)⟩
  · exact ⟨hcur, nofun, hcount, hten, fun _ => .inr (.inl rfl)⟩
  · have htotal := f.ten_le_total
    exact ⟨add_total_le_length hf, nofun, by simp [hcount], by simp only; omega, nofun⟩
  · exact ⟨hcur, nofun, hcount, hten, fun _ => .inr (.inr rfl)⟩
  · exact ⟨Nat.le_of_succ_le (hroom hp), nofun, hcount, Nat.le_succ_of_le hten, nofun⟩
  · exact ⟨hcur, hroom, hcount, hten, hstop⟩

theorem scanTicks_bounded (k : Nat) (h : r.Bounded w) : (scanTicks c w k r).Bounded w := by
  induction k generalizing r with
  | zero => exact h
  | succ k ih => exact ih (scanTick_bounded h)

theorem cursor_le_scanTick_cursor (c : Config) (w : List Byte) (r : ScanRun) : r.cursor ≤ (scanTick c w r).cursor := by
  obtain ⟨-, -, ht⟩ | ⟨-, -, -, ht⟩ | ⟨-, -, -, ht⟩ | ⟨-, -, ht⟩ | ⟨-, -, f, -, ht⟩ | ⟨-, -, -, ht⟩ | ⟨-, -, -, ht⟩ |
    ⟨-, ht⟩ := scanTick_cases c w r <;> rw [ht] <;> simp

/-- A candidate is left for the search by a frame or by one byte. -/
theorem cursor_lt_scanTick_cursor (hp : r.phase = .candidate) (hp' : (scanTick c w r).phase = .search) :
    r.cursor < (scanTick c w r).cursor := by
  obtain ⟨h, -⟩ | ⟨h, -⟩ | ⟨h, -⟩ | ⟨-, -, ht⟩ | ⟨-, -, f, -, ht⟩ | ⟨-, -, -, ht⟩ | ⟨-, -, -, ht⟩ | ⟨h, -⟩ :=
    scanTick_cases c w r
  case inr.inr.inr.inr.inl =>
    have htotal := f.ten_le_total
    rw [ht]
    exact Nat.lt_add_of_pos_right (by omega)
  case inr.inr.inr.inr.inr.inr.inl =>
    rw [ht]
    exact Nat.lt_succ_self _
  case inr.inr.inr.inl | inr.inr.inr.inr.inr.inl => rw [ht] at hp'; cases hp'
  all_goals cases h.symm.trans hp

/-- A bound on the rows until DONE: two for every byte ahead of the cursor, and the search that finds none. -/
def ScanRun.rowsLeft (w : List Byte) (r : ScanRun) : Nat :=
  match r.phase with
  | .search => 2 * (w.length - r.cursor) + 2
  | .candidate => 2 * (w.length - r.cursor) + 1
  | .done => 0

theorem rowsLeft_scanTick_lt (h : r.Bounded w) (hp : r.phase ≠ .done) :
    (scanTick c w r).rowsLeft w < r.rowsLeft w := by
  have hroom := h.candidate_room
  obtain ⟨hs, -, ht⟩ | ⟨hs, -, -, ht⟩ | ⟨hs, hlen, -, ht⟩ | ⟨hs, -, ht⟩ | ⟨hs, -, f, hf, ht⟩ | ⟨hs, -, -, ht⟩ |
    ⟨hs, -, -, ht⟩ | ⟨hs, -⟩ := scanTick_cases c w r
  case inr.inr.inr.inr.inl =>
    have htotal := f.ten_le_total
    have hend := add_total_le_length hf
    simp only [ScanRun.rowsLeft, ht, hs]
    omega
  case inr.inr.inr.inr.inr.inr.inr => exact absurd hs hp
  all_goals simp only [ScanRun.rowsLeft, ht, hs, forall_const] at hroom ⊢; omega

theorem scanTicks_phase_done {k : Nat} (h : r.Bounded w) (hk : r.rowsLeft w ≤ k) :
    (scanTicks c w k r).phase = .done := by
  induction k generalizing r with
  | zero =>
    by_contra hp
    have hlt := rowsLeft_scanTick_lt (c := c) h hp
    omega
  | succ k ih =>
    by_cases hp : r.phase = .done
    · rwa [scanTicks_of_done c w _ hp]
    · exact ih (scanTick_bounded h) (by have hlt := rowsLeft_scanTick_lt (c := c) h hp; omega)

end Rows

theorem scanStream_bounded (c : Config) (w : List Byte) : (scanStream c w).Bounded w :=
  scanTicks_bounded _ (scanStart_bounded w)

/-- `2n + 2` rows are enough. -/
theorem scanStream_phase (c : Config) (w : List Byte) : (scanStream c w).phase = .done :=
  scanTicks_phase_done (scanStart_bounded w) le_rfl

/-- Settles O45: the cursor rises with each candidate left, and the bounds hold after every row. -/
theorem scannerAlwaysFinishes : Obligations.ScannerAlwaysFinishes := by
  intro c w
  have hbounded := scanStream_bounded c w
  refine ⟨fun r hp hp' => cursor_lt_scanTick_cursor hp hp', fun k => ⟨?_, ?_⟩, scanStream_phase c w,
    hbounded.stopped (scanStream_phase c w), hbounded.count_eq, hbounded.consumed⟩
  · rw [scanTicks_add]
    exact cursor_le_scanTick_cursor c w _
  · exact (scanTicks_bounded k (scanStart_bounded w)).cursor_le

/-! ## The states a scan reaches -/

/-- Some number of rows leads from `r` to `r'`. -/
def Reaches (c : Config) (w : List Byte) (r r' : ScanRun) : Prop := ∃ k, scanTicks c w k r = r'

/-- In SEARCH at `p`, the frames `hs` found. -/
def searching (p : Nat) (hs : List (Nat × Frame)) : ScanRun :=
  { phase := .search, cursor := p, count := hs.length, stop := .none, hits := hs }

/-- Ended at `p`, the frames `hs` found. -/
def stoppedAt (p : Nat) (stop : StopReason) (hs : List (Nat × Frame)) : ScanRun :=
  { phase := .done, cursor := p, count := hs.length, stop := stop, hits := hs }

/-- The scan passes position `q`: no preamble stands there, or one whose candidate fails a checksum (R232). -/
def Passed (c : Config) (w : List Byte) (q : Nat) : Prop :=
  (q + 2 ≤ w.length ∧ preambleAt c w q = false) ∨
  (10 ≤ w.length - q ∧ preambleAt c w q = true ∧ ∃ k, k ≠ .incompleteFrame ∧ decodeFrame c (w.drop q) = .error k)

section Reach

variable {c : Config} {w : List Byte} {p q : Nat} {hs : List (Nat × Frame)}

theorem Reaches.refl (r : ScanRun) : Reaches c w r r := ⟨0, rfl⟩

theorem Reaches.trans {r₁ r₂ r₃ : ScanRun} (h₁ : Reaches c w r₁ r₂) (h₂ : Reaches c w r₂ r₃) : Reaches c w r₁ r₃ := by
  obtain ⟨j, rfl⟩ := h₁
  obtain ⟨k, rfl⟩ := h₂
  exact ⟨j + k, scanTicks_add ..⟩

/-- What a scan ends in, whatever the number of rows, is the whole scan. -/
theorem scanStream_eq_of_reaches {r : ScanRun} (h : Reaches c w scanStart r) (hr : r.phase = .done) :
    scanStream c w = r := by
  obtain ⟨k, rfl⟩ := h
  calc scanStream c w = scanTicks c w k (scanStream c w) := (scanTicks_of_done c w k (scanStream_phase c w)).symm
    _ = scanTicks c w (2 * w.length + 2) (scanTicks c w k scanStart) := by
      rw [scanStream, ← scanTicks_add, Nat.add_comm, scanTicks_add]
    _ = scanTicks c w k scanStart := scanTicks_of_done c w _ hr

theorem room_of_preambleAt (hpre : preambleAt c w p = true) : p + 2 ≤ w.length := ((preambleAt_iff c w p).1 hpre).1

/-- A preamble makes a candidate. -/
theorem scanTick_searching_of_preambleAt (hpre : preambleAt c w p = true) :
    scanTick c w (searching p hs) = { searching p hs with phase := .candidate } := by
  have hroom := room_of_preambleAt hpre
  simp only [scanTick, searching, hpre, if_true]
  rw [if_neg (by omega)]

/-- A candidate is judged in two rows from the search. -/
theorem reaches_of_candidate {r : ScanRun} (hpre : preambleAt c w p = true)
    (hr : scanTick c w { searching p hs with phase := .candidate } = r) : Reaches c w (searching p hs) r :=
  ⟨2, by simp only [scanTicks, scanTick_searching_of_preambleAt hpre, hr]⟩

theorem reaches_stoppedAt_tooShort (hpre : preambleAt c w p = true) (hlen : w.length - p < 10) :
    Reaches c w (searching p hs) (stoppedAt p .tooShort hs) :=
  reaches_of_candidate hpre (if_pos hlen)

theorem reaches_stoppedAt_incomplete (hpre : preambleAt c w p = true) (hlen : 10 ≤ w.length - p)
    (hd : decodeFrame c (w.drop p) = .error .incompleteFrame) :
    Reaches c w (searching p hs) (stoppedAt p .incomplete hs) := by
  refine reaches_of_candidate hpre ?_
  simp only [scanTick, searching, hd]
  exact if_neg hlen.not_gt

/-- What decodes begins with the preamble. -/
theorem HeaderIntact.preambleAt (h : HeaderIntact c (w.drop p)) : preambleAt c w p = true := by
  have hlen := h.length
  rw [List.length_drop] at hlen
  exact (preambleAt_iff c w p).2
    ⟨by omega, (byteAt_drop w p 0).symm.trans h.preamble0, (byteAt_drop w p 1).symm.trans h.preamble1⟩

theorem headerIntact_of_decodeFrame_ok {f : Frame} (hd : decodeFrame c w = .ok f) : HeaderIntact c w := by
  obtain ⟨-, h⟩ | ⟨-, -, h⟩ | ⟨-, -, -, -, h⟩ | h := decodeFrame_cases c w
  case inr.inr.inr => exact h
  all_goals cases h.symm.trans hd

/-- A frame found is recorded and jumped over. -/
theorem reaches_searching_of_ok {f : Frame} (hd : decodeFrame c (w.drop p) = .ok f) :
    Reaches c w (searching p hs) (searching (p + f.total) (hs ++ [(p, f)])) := by
  have hi := headerIntact_of_decodeFrame_ok hd
  have hlen := hi.length
  rw [List.length_drop] at hlen
  refine reaches_of_candidate hi.preambleAt ?_
  simp only [scanTick, searching, hd, List.length_append, List.length_singleton]
  exact if_neg hlen.not_gt

theorem reaches_searching_succ (h : Passed c w q) : Reaches c w (searching q hs) (searching (q + 1) hs) := by
  obtain ⟨hroom, hpre⟩ | ⟨hlen, hpre, k, hk, hd⟩ := h
  · refine ⟨1, ?_⟩
    simp only [scanTicks, scanTick, searching, hpre, Bool.false_eq_true, if_false]
    exact if_neg (by omega)
  · refine reaches_of_candidate hpre ?_
    simp only [scanTick, searching, hd]
    exact if_neg hlen.not_gt

/-- The scan goes on behind a stretch of positions it passes. -/
theorem reaches_searching_of_passed (hpq : p ≤ q) (h : ∀ x, p ≤ x → x < q → Passed c w x) :
    Reaches c w (searching p hs) (searching q hs) := by
  induction q, hpq using Nat.le_induction with
  | base => exact .refl _
  | succ q hpq ih =>
    have hq : Passed c w q := h q hpq (Nat.lt_succ_self q)
    exact (ih fun x hx hxq => h x hx (Nat.lt_succ_of_lt hxq)).trans (reaches_searching_succ hq)

/-- The search runs up to the first preamble. -/
theorem reaches_searching_of_preambleAt (hpq : p ≤ q) (hpre : preambleAt c w q = true)
    (hno : ∀ x, p ≤ x → x < q → preambleAt c w x = false) : Reaches c w (searching p hs) (searching q hs) := by
  have hroom := room_of_preambleAt hpre
  exact reaches_searching_of_passed hpq fun x hx hxq => .inl ⟨by omega, hno x hx hxq⟩

/-- The search that finds no preamble ends where none can start any more. -/
theorem reaches_stoppedAt_noPreamble (hno : ∀ x, p ≤ x → preambleAt c w x = false) :
    Reaches c w (searching p hs) (stoppedAt (max p (w.length - 1)) .noPreamble hs) := by
  refine (reaches_searching_of_passed (le_max_left p (w.length - 1)) fun x hx hxq => .inl ⟨by omega, hno x hx⟩).trans
    ⟨1, ?_⟩
  simp only [scanTicks, scanTick, searching]
  exact if_pos (by omega)

end Reach

end Sys2Proof.Machine
end

section
/-! SUPPORT. The scanner's loop (44_scanner.md R232) gives what its state machine gives. -/

namespace Sys2Proof.Machine

variable {c : Config} {w : List Byte} {hs : List (Nat × Frame)}

/-! ## `find_preamble` (R231) -/

theorem findPreamble_eq_some {fuel q p : Nat} (h : findPreamble c w fuel q = some p) :
    q ≤ p ∧ preambleAt c w p = true ∧ ∀ x, q ≤ x → x < p → preambleAt c w x = false := by
  induction fuel generalizing q with
  | zero => cases h
  | succ fuel ih =>
    rw [findPreamble] at h
    split at h
    · cases h
    · split at h
      next hpre =>
        cases h
        exact ⟨le_rfl, hpre, fun x hx hxq => absurd hxq hx.not_gt⟩
      next hpre =>
        obtain ⟨hle, hp, hno⟩ := ih h
        refine ⟨Nat.le_of_succ_le hle, hp, fun x hx hxp => ?_⟩
        rcases hx.eq_or_lt with rfl | hlt
        · simpa using hpre
        · exact hno x hlt hxp

theorem preambleAt_eq_false_of_length_lt {x : Nat} (h : w.length < x + 2) : preambleAt c w x = false := by
  by_contra hpre
  have hroom := room_of_preambleAt (by simpa using hpre)
  omega

/-- With fuel for every position, `none` means that no preamble starts at `q` or later. -/
theorem findPreamble_eq_none {fuel q : Nat} (hfuel : w.length < q + fuel) (h : findPreamble c w fuel q = none) (x : Nat)
    (hx : q ≤ x) : preambleAt c w x = false := by
  induction fuel generalizing q with
  | zero => exact preambleAt_eq_false_of_length_lt (by omega)
  | succ fuel ih =>
    rw [findPreamble] at h
    split at h
    · exact preambleAt_eq_false_of_length_lt (by omega)
    · split at h
      · cases h
      next hpre =>
        rcases hx.eq_or_lt with rfl | hlt
        · simpa using hpre
        · exact ih (by omega) h hlt

/-! ## The loop (R232) -/

/-- From a search within the stream, the loop ends in a final state the machine reaches: every pass takes the machine
from one search to the next, with the cursor raised. -/
theorem scanLoop_reaches (fuel : Nat) {p : Nat} (hp : p ≤ w.length) (hfuel : w.length < p + fuel) :
    ∃ r, scanLoop c w fuel p hs = some r ∧ r.phase = .done ∧ Reaches c w (searching p hs) r := by
  induction fuel generalizing p hs with
  | zero => omega
  | succ fuel ih =>
    rw [scanLoop]
    cases hfind : findPreamble c w (w.length + 1) p with
    | none =>
      have hcursor : (if 1 ≤ w.length then max p (w.length - 1) else p) = max p (w.length - 1) := by
        split <;> omega
      refine ⟨stoppedAt (max p (w.length - 1)) .noPreamble hs, ?_, rfl,
        reaches_stoppedAt_noPreamble (findPreamble_eq_none (by omega) hfind)⟩
      simp only [hcursor, stoppedAt]
    | some q =>
      obtain ⟨hpq, hpre, hno⟩ := findPreamble_eq_some hfind
      have hsearch : Reaches c w (searching p hs) (searching q hs) := reaches_searching_of_preambleAt hpq hpre hno
      have hroom := room_of_preambleAt hpre
      simp only
      split
      next hshort => exact ⟨_, rfl, rfl, hsearch.trans (reaches_stoppedAt_tooShort hpre hshort)⟩
      next hlong =>
        have hlen := Nat.le_of_not_lt hlong
        split
        next f hd =>
          have hten := f.ten_le_total
          obtain ⟨r, hr, hdone, hreach⟩ := ih (hs := hs ++ [(q, f)]) (add_total_le_length hd) (by omega)
          exact ⟨r, hr, hdone, (hsearch.trans (reaches_searching_of_ok hd)).trans hreach⟩
        next hd => exact ⟨_, rfl, rfl, hsearch.trans (reaches_stoppedAt_incomplete hpre hlen hd)⟩
        next k hk hd =>
          obtain ⟨r, hr, hdone, hreach⟩ := ih (hs := hs) (p := q + 1) (by omega) (by omega)
          exact ⟨r, hr, hdone, (hsearch.trans (reaches_searching_succ (.inr ⟨hlen, hpre, k, hk, hd⟩))).trans hreach⟩

/-- Settles O44: the loop started at offset 0 ends in the one final state the machine reaches. -/
theorem scannerLoopEqualsStateMachine : Obligations.ScannerLoopEqualsStateMachine := by
  intro c w
  obtain ⟨r, hloop, hdone, hreach⟩ :=
    scanLoop_reaches (c := c) (w := w) (hs := []) (w.length + 1) (Nat.zero_le _) (by omega)
  rw [hloop, scanStream_eq_of_reaches hreach hdone]

end Sys2Proof.Machine
end

section
/-! SUPPORT. A scan behind a point it has reached (44_scanner.md section 5): resynchronisation, leading junk, clean
streams and truncated frames. -/

namespace Sys2Proof.Machine

/-! ## The rest of a stream as a stream of its own -/

/-- A scan of the bytes from offset `k` on, seen as part of a scan that had found `hs` before them. -/
def ScanRun.behind (k : Nat) (hs : List (Nat × Frame)) (r : ScanRun) : ScanRun :=
  { r with cursor := k + r.cursor, count := hs.length + r.count, hits := hs ++ shiftHits k r.hits }

@[simp] theorem shiftHits_nil (k : Nat) : shiftHits k [] = [] := rfl

@[simp] theorem shiftHits_cons (k : Nat) (h : Nat × Frame) (hs : List (Nat × Frame)) :
    shiftHits k (h :: hs) = (h.1 + k, h.2) :: shiftHits k hs := rfl

theorem shiftHits_append (k : Nat) (hs hs' : List (Nat × Frame)) :
    shiftHits k (hs ++ hs') = shiftHits k hs ++ shiftHits k hs' := List.map_append

theorem scanStart_behind (k : Nat) (hs : List (Nat × Frame)) : scanStart.behind k hs = searching k hs := by
  simp [ScanRun.behind, scanStart, searching]

/-- Behind a point before which nothing was found only the offsets move. -/
theorem behind_nil_eq {k : Nat} {r : ScanRun} (hr : r.phase = .done) : r.behind k [] =
    { phase := .done, cursor := k + r.cursor, count := r.count, stop := r.stop, hits := shiftHits k r.hits } := by
  simp [ScanRun.behind, hr]

section Behind

variable {c : Config} {w : List Byte} {k : Nat} {hs : List (Nat × Frame)}

theorem preambleAt_drop (c : Config) (w : List Byte) (k q : Nat) :
    preambleAt c (w.drop k) q = preambleAt c w (k + q) := by
  rw [Bool.eq_iff_iff, preambleAt_iff, preambleAt_iff, byteAt_drop, byteAt_drop, List.length_drop, Nat.add_assoc]
  exact and_congr_left fun _ => by omega

theorem scanTick_behind (c : Config) (w : List Byte) (k : Nat) (hs : List (Nat × Frame)) (r : ScanRun) :
    scanTick c w (r.behind k hs) = (scanTick c (w.drop k) r).behind k hs := by
  have hend : k + r.cursor + 2 > w.length ↔ r.cursor + 2 > (w.drop k).length := by rw [List.length_drop]; omega
  have hroom : w.length - (k + r.cursor) < 10 ↔ (w.drop k).length - r.cursor < 10 := by rw [List.length_drop]; omega
  cases hp : r.phase with
  | search =>
    simp only [scanTick, ScanRun.behind, hp, hend, preambleAt_drop]
    split
    · rfl
    · split <;> rfl
  | candidate =>
    simp only [scanTick, ScanRun.behind, hp, hroom, List.drop_drop]
    split
    · rfl
    · split
      · simp [shiftHits_append, Nat.add_assoc, Nat.add_comm k]
      · rfl
      · rfl
  | done => simp only [scanTick, ScanRun.behind, hp]

theorem scanTicks_behind (j : Nat) (r : ScanRun) :
    scanTicks c w j (r.behind k hs) = (scanTicks c (w.drop k) j r).behind k hs := by
  induction j generalizing r with
  | zero => rfl
  | succ j ih => rw [scanTicks, scanTicks, scanTick_behind, ih]

/-- A scan that has come to a search at `k` goes on as a scan of the bytes from there. -/
theorem scanStream_eq_behind (h : Reaches c w scanStart (searching k hs)) :
    scanStream c w = (scanStream c (w.drop k)).behind k hs :=
  scanStream_eq_of_reaches (h.trans ⟨2 * (w.drop k).length + 2, by rw [← scanStart_behind, scanTicks_behind]; rfl⟩)
    (scanStream_phase c (w.drop k))

end Behind

/-! ## The first candidate (R232) -/

theorem reaches_first_preamble {c : Config} {w : List Byte} {p : Nat} (hno : ∀ q < p, preambleAt c w q = false)
    (hpre : preambleAt c w p = true) : Reaches c w scanStart (searching p []) :=
  reaches_searching_of_preambleAt (hs := []) (Nat.zero_le p) hpre fun x _ hx => hno x hx

/-- Settles O47: the search reaches the candidate, and `IncompleteFrame` stops the scan there. -/
theorem incompleteCandidateEndsTheScan : Obligations.IncompleteCandidateEndsTheScan := fun _ _ _ hno hpre hlen hd =>
  scanStream_eq_of_reaches ((reaches_first_preamble hno hpre).trans (reaches_stoppedAt_incomplete hpre hlen hd)) rfl

/-- Settles O48: the search reaches the candidate and passes it. -/
theorem failedCandidateIsSkippedByOneByte : Obligations.FailedCandidateIsSkippedByOneByte := by
  intro c w p k hno hpre hlen hd hk
  have hreach : Reaches c w scanStart (searching (p + 1) []) :=
    (reaches_first_preamble hno hpre).trans (reaches_searching_succ (.inr ⟨hlen, hpre, k, hk, hd⟩))
  rw [scanStream_eq_behind hreach, behind_nil_eq (scanStream_phase ..)]

/-! ## Leading junk (property (b)) -/

theorem scanStream_of_no_preamble {c : Config} {w : List Byte} (hno : ∀ q, preambleAt c w q = false) :
    scanStream c w = stoppedAt (w.length - 1) .noPreamble [] := by
  have hreach : Reaches c w scanStart _ := reaches_stoppedAt_noPreamble (p := 0) (hs := []) fun x _ => hno x
  rw [scanStream_eq_of_reaches hreach rfl, Nat.zero_max]

theorem scanStream_nil (c : Config) : scanStream c [] = stoppedAt 0 .noPreamble [] :=
  scanStream_of_no_preamble fun _ => preambleAt_eq_false_of_length_lt (by simp)

/-- Settles O50: every position of the junk is passed; junk alone holds no preamble, as the empty stream holds none. -/
theorem leadingJunkIsSkipped : Obligations.LeadingJunkIsSkipped := by
  intro c j w hno
  by_cases hw : w = []
  · subst hw
    have hno' : ∀ q, preambleAt c (j ++ []) q = false := fun q => by
      by_cases hq : q < j.length
      · exact hno q hq
      · exact preambleAt_eq_false_of_length_lt (by simp; omega)
    rw [scanStream_of_no_preamble hno', scanStream_nil]
    exact ⟨rfl, rfl, rfl, fun h => absurd rfl h⟩
  · have hpos : 0 < w.length := List.length_pos_iff.2 hw
    have hreach : Reaches c (j ++ w) scanStart (searching j.length []) :=
      reaches_searching_of_passed (hs := []) (Nat.zero_le _) fun x _ hx =>
        .inl ⟨by rw [List.length_append]; omega, hno x hx⟩
    rw [scanStream_eq_behind hreach, List.drop_left, behind_nil_eq (scanStream_phase ..)]
    exact ⟨rfl, rfl, rfl, fun _ => rfl⟩

/-! ## Clean streams (property (a)) -/

/-- The fields of a frame the encoder writes (R84). -/
def frameOf (c : Config) (k : Half) (p : List Byte) : Frame :=
  ⟨k, BitVec.ofNat 16 p.length, crc16 c (header6 c k (BitVec.ofNat 16 p.length)), crc16 c p⟩

theorem frameOf_total {c : Config} {k : Half} {p : List Byte} (hp : p.length ≤ 65535) :
    (frameOf c k p).total = (frameBytes c k p).length := by
  have hsize : (BitVec.ofNat 16 p.length).toNat = p.length := Nat.mod_eq_of_lt (by omega)
  rw [frameBytes_length, Frame.total, frameOf, hsize]

theorem decodeFrame_frameBytes_append (c : Config) (k : Half) {p : List Byte} (hp : p.length ≤ 65535) (t : List Byte) :
    decodeFrame c (frameBytes c k p ++ t) = .ok (frameOf c k p) := by
  have hd := decodeFrame_frameBytes c k hp
  exact (decodeFrame_append (by simp [hd]) t).trans hd

/-- A frame at the start of a stream is found, and the scan goes on behind it. -/
theorem scanStream_frameBytes_append (c : Config) (k : Half) {p : List Byte} (hp : p.length ≤ 65535) (t : List Byte) :
    scanStream c (frameBytes c k p ++ t) =
      (scanStream c t).behind (frameBytes c k p).length [(0, frameOf c k p)] := by
  have hreach : Reaches c (frameBytes c k p ++ t) scanStart
      (searching (0 + (frameOf c k p).total) ([] ++ [(0, frameOf c k p)])) :=
    reaches_searching_of_ok (p := 0) (hs := []) (decodeFrame_frameBytes_append c k hp t)
  rw [Nat.zero_add, frameOf_total hp] at hreach
  rw [scanStream_eq_behind hreach, List.drop_left, List.nil_append]

@[simp] theorem cleanStream_nil (c : Config) : cleanStream c [] = [] := rfl

@[simp] theorem cleanStream_cons (c : Config) (f : Half × List Byte) (fs : List (Half × List Byte)) :
    cleanStream c (f :: fs) = frameBytes c f.1 f.2 ++ cleanStream c fs := List.flatMap_cons

/-- The findings in a clean stream move with its offset. -/
theorem cleanHits_add (c : Config) (p k : Nat) (fs : List (Half × List Byte)) :
    cleanHits c (p + k) fs = shiftHits k (cleanHits c p fs) := by
  induction fs generalizing p with
  | nil => rfl
  | cons f fs ih =>
    rw [cleanHits, cleanHits, shiftHits_cons, ← ih]
    congr 2
    omega

theorem cleanHits_cons (c : Config) (f : Half × List Byte) (fs : List (Half × List Byte)) :
    cleanHits c 0 (f :: fs) =
      (0, frameOf c f.1 f.2) :: shiftHits (frameBytes c f.1 f.2).length (cleanHits c 0 fs) := by
  rw [cleanHits, ← cleanHits_add, frameBytes_length]
  rfl

/-- Settles O49, by induction on the frames: the first is found, and behind it stands a clean stream. -/
theorem cleanStreamIsFoundWhole : Obligations.CleanStreamIsFoundWhole := by
  intro c fs hfs
  induction fs with
  | nil => exact scanStream_nil c
  | cons f fs ih =>
    rw [List.forall_mem_cons] at hfs
    rw [cleanStream_cons, scanStream_frameBytes_append c f.1 hfs.1, ih hfs.2, cleanHits_cons, List.length_append,
      List.length_cons, Nat.add_comm fs.length]
    rfl

/-! ## Truncated frames (property (d)) -/

theorem preambleAt_frameBytes_take (c : Config) (k : Half) (p : List Byte) {j : Nat} (hj : 2 ≤ j) :
    preambleAt c ((frameBytes c k p).take j) 0 = true := by
  obtain ⟨i, rfl⟩ := Nat.exists_eq_add_of_le' hj
  simp [preambleAt, frameBytes, header6, byteAt]

/-- Of a frame of which ten bytes are there but not all, the decoder sees the header and misses the rest. -/
theorem decodeFrame_frameBytes_take (c : Config) (k : Half) {p : List Byte} {j : Nat} (hp : p.length ≤ 65535)
    (hj : 10 ≤ j) (hlt : j < p.length + 10) :
    decodeFrame c ((frameBytes c k p).take j) = .error .incompleteFrame := by
  have htake : ((frameBytes c k p).take j).take 10 = (frameBytes c k p).take 10 := by
    rw [List.take_take, Nat.min_eq_left hj]
  have hlen : ((frameBytes c k p).take j).length = j := by simp; omega
  have hi := headerIntact_frameBytes c k (p := p)
  have hi' : HeaderIntact c ((frameBytes c k p).take j) :=
    { length := hlen.symm ▸ hj
      preamble0 := (byteAt_eq_of_take_eq htake (by decide)).trans hi.preamble0
      preamble1 := (byteAt_eq_of_take_eq htake (by decide)).trans hi.preamble1
      crc := by rw [take_eq_of_take_eq htake (by decide), rd16le_eq_of_take_eq htake (by decide), hi.crc] }
  have hsize : (BitVec.ofNat 16 p.length).toNat = p.length := Nat.mod_eq_of_lt (by omega)
  rw [hi'.decodeFrame_eq, if_pos]
  rwa [candidateSize, rd16le_eq_of_take_eq htake (by decide), rd16le_frameBytes_size, hsize, hlen]

/-- Settles O52: the candidate at offset 0, if two bytes make one, ends the scan at once. -/
theorem truncatedFrameYieldsNothing : Obligations.TruncatedFrameYieldsNothing := by
  intro c k p j hp hj hlt
  have hlen : ((frameBytes c k p).take j).length = j := by simp; omega
  obtain rfl | hj2 : j = 1 ∨ 2 ≤ j := by omega
  · exact (scanStream_of_no_preamble fun q => preambleAt_eq_false_of_length_lt (by omega)).trans (by rw [hlen]; rfl)
  have hpre := preambleAt_frameBytes_take c k p hj2
  rw [if_neg (by omega)]
  split
  next h9 => exact scanStream_eq_of_reaches (reaches_stoppedAt_tooShort (p := 0) (hs := []) hpre (by omega)) rfl
  next h9 =>
    exact scanStream_eq_of_reaches (reaches_stoppedAt_incomplete (p := 0) (hs := []) hpre (by omega)
      (decodeFrame_frameBytes_take c k hp (by omega) hlt)) rfl

end Sys2Proof.Machine
end

section
/-! SUPPORT. The checksum as a linear register (40_crc.md section 3): the shift of R121 is linear and, when the
generator has a constant term, injective; the table form, the bit-serial form and the form bit by bit agree. -/

namespace Sys2Proof.Machine

/-! ## One shift (R121) -/

section Shift

variable {poly x y : Half}

theorem crcShift_of_clear (hx : x.getLsbD 15 = false) : crcShift poly x = x <<< 1 := by
  rw [crcShift, hx]; rfl

theorem crcShift_of_set (hx : x.getLsbD 15 = true) : crcShift poly x = (x <<< 1) ^^^ poly := by
  rw [crcShift, hx]; rfl

/-- The shift is linear: `CRC_POLY` is folded in for one of two set bits, and cancels for both. -/
theorem crcShift_xor (poly x y : Half) : crcShift poly (x ^^^ y) = crcShift poly x ^^^ crcShift poly y := by
  have hbit : (x ^^^ y).getLsbD 15 = (x.getLsbD 15 ^^ y.getLsbD 15) := BitVec.getLsbD_xor
  cases hx : x.getLsbD 15 <;> cases hy : y.getLsbD 15 <;> rw [hx, hy] at hbit
  · rw [crcShift_of_clear hbit, crcShift_of_clear hx, crcShift_of_clear hy, BitVec.shiftLeft_xor_distrib]
  · rw [crcShift_of_set hbit, crcShift_of_clear hx, crcShift_of_set hy, BitVec.shiftLeft_xor_distrib, BitVec.xor_assoc]
  · rw [crcShift_of_set hbit, crcShift_of_set hx, crcShift_of_clear hy, BitVec.shiftLeft_xor_distrib]
    ac_rfl
  · rw [crcShift_of_clear hbit, crcShift_of_set hx, crcShift_of_set hy, BitVec.shiftLeft_xor_distrib]
    have hcancel : poly ^^^ poly = 0#16 := BitVec.xor_self
    rw [show x <<< 1 ^^^ poly ^^^ (y <<< 1 ^^^ poly) = x <<< 1 ^^^ y <<< 1 ^^^ (poly ^^^ poly) by ac_rfl, hcancel,
      BitVec.xor_zero]

/-- With a constant term, bit 0 of the shifted register is the bit shifted out. -/
theorem crcShift_getLsbD_zero (hpoly : poly.getLsbD 0 = true) (x : Half) :
    (crcShift poly x).getLsbD 0 = x.getLsbD 15 := by
  cases hx : x.getLsbD 15 with
  | false => simp [crcShift_of_clear hx]
  | true => simp [crcShift_of_set hx, hpoly]

/-- A generator with a constant term loses no bit. -/
theorem crcShift_injective (hpoly : poly.getLsbD 0 = true) : Function.Injective (crcShift poly) := by
  intro x y h
  have h15 : x.getLsbD 15 = y.getLsbD 15 := by
    rw [← crcShift_getLsbD_zero hpoly, ← crcShift_getLsbD_zero hpoly, h]
  have hshift : x <<< 1 = y <<< 1 := by
    cases hy : y.getLsbD 15 with
    | false => rwa [crcShift_of_clear (h15.trans hy), crcShift_of_clear hy] at h
    | true => rwa [crcShift_of_set (h15.trans hy), crcShift_of_set hy, BitVec.xor_left_inj] at h
  refine BitVec.eq_of_getLsbD_eq fun i hi => ?_
  obtain rfl | hlt : i = 15 ∨ i + 1 < 16 := by omega
  · exact h15
  · have hbit := congrArg (·.getLsbD (i + 1)) hshift
    simpa only [BitVec.getLsbD_shiftLeft, hlt, decide_true, Nat.le_add_left, Nat.add_sub_cancel, Bool.true_and,
      Nat.not_lt.2 (Nat.le_add_left 1 i), decide_false, Bool.not_false] using hbit

end Shift

/-! ## Several shifts -/

theorem crcShifts_xor (poly : Half) (k : Nat) (x y : Half) :
    crcShifts poly k (x ^^^ y) = crcShifts poly k x ^^^ crcShifts poly k y := by
  induction k generalizing x y with
  | zero => rfl
  | succ k ih => rw [crcShifts, crcShifts, crcShifts, crcShift_xor, ih]

theorem crcShifts_injective {poly : Half} (hpoly : poly.getLsbD 0 = true) (k : Nat) :
    Function.Injective (crcShifts poly k) := by
  induction k with
  | zero => exact fun _ _ h => h
  | succ k ih => exact ih.comp (crcShift_injective hpoly)

/-- Where the bits shifted out are clear, the generator is never folded in. -/
theorem crcShifts_of_high_clear {poly x : Half} {k : Nat} (hx : ∀ i, 16 ≤ i + k → x.getLsbD i = false) :
    crcShifts poly k x = x <<< k := by
  induction k generalizing x with
  | zero => exact (BitVec.shiftLeft_zero x).symm
  | succ k ih =>
    rw [crcShifts, crcShift_of_clear (hx 15 (by omega)), ih fun i hi => ?_, ← BitVec.shiftLeft_add, Nat.add_comm]
    rw [BitVec.getLsbD_shiftLeft]
    cases i with
    | zero => simp
    | succ i => simp [hx i (by omega)]

/-! ## The three forms of one byte (R122, R123) -/

/-- The high byte of the register meets the incoming byte; the low byte is on its own. -/
theorem xor_byte_eq_split (r : Half) (b : Byte) : r ^^^ (b.setWidth 16 <<< 8) =
    (r.extractLsb' 0 8).setWidth 16 ^^^ ((r.extractLsb' 8 8 ^^^ b).setWidth 16 <<< 8) := by
  refine BitVec.eq_of_getLsbD_eq fun i hi => ?_
  obtain hlow | hhigh := Nat.lt_or_ge i 8
  · simp [hi, hlow]
  · have hsub : i - 8 < 8 := by omega
    simp [hi, hhigh.not_gt, hsub, Nat.add_sub_cancel' hhigh]

theorem shiftLeft_low_byte (r : Half) : (r.extractLsb' 0 8).setWidth 16 <<< 8 = r <<< 8 := by
  refine BitVec.eq_of_getLsbD_eq fun i hi => ?_
  have hsub : i - 8 < 8 := by omega
  simp [hi, hsub, BitVec.getLsbD_eq_getElem (show i - 8 < 16 by omega)]

/-- The bit-serial step is the table step: the table holds what the high byte becomes, and the low byte only moves. -/
theorem crcByteSerial_eq_crcByte (poly r : Half) (b : Byte) : crcByteSerial poly r b = crcByte poly r b := by
  have hclear : ∀ i, 16 ≤ i + 8 → ((r.extractLsb' 0 8).setWidth 16).getLsbD i = false := fun i hi => by
    simp [Nat.not_lt.2 (show 8 ≤ i by omega)]
  calc crcByteSerial poly r b
      = crcShifts poly 8 ((r.extractLsb' 0 8).setWidth 16) ^^^ crcTable poly (r.extractLsb' 8 8 ^^^ b) := by
        rw [crcByteSerial, xor_byte_eq_split, crcShifts_xor, crcTable]
    _ = crcByte poly r b := by rw [crcShifts_of_high_clear hclear, shiftLeft_low_byte, crcByte]

/-- Settles O19, byte by byte. -/
theorem crcSerialEqualsTable : Obligations.CrcSerialEqualsTable := by
  intro c s
  rw [crc16Serial, crc16, crcFrom, funext₂ (crcByteSerial_eq_crcByte c.crcPoly)]

/-- Settles O20: one pass over a concatenation is a pass over each part. -/
theorem crcContinues : Obligations.CrcContinues := fun _ _ _ => List.foldl_append

/-! ## The form bit by bit (property (d)) -/

/-- One bit, in bit 15 of the register. -/
def topBit (b : Bool) : Half := if b then 0x8000 else 0

/-- Folds one bit in: it meets bit 15 of the register, which is shifted out (R123). -/
def crcBit (poly r : Half) (b : Bool) : Half := crcShift poly (r ^^^ topBit b)

/-- At most 16 bits at the top of a register, the first one in bit 15. -/
def topBits : List Bool → Half
  | [] => 0
  | b :: u => topBit b ^^^ (topBits u >>> 1)

theorem topBit_getMsbD (b : Bool) : ∀ i < 16, (topBit b).getMsbD i = (decide (i = 0) && b) := by
  cases b <;> decide

theorem topBits_getMsbD (u : List Bool) {i : Nat} (hi : i < 16) : (topBits u).getMsbD i = u.getD i false := by
  induction u generalizing i with
  | nil => simp [topBits]
  | cons b u ih =>
    rw [topBits, BitVec.getMsbD_xor, topBit_getMsbD b i hi, BitVec.getMsbD_ushiftRight]
    cases i with
    | zero => simp
    | succ i => simp [hi, ih (Nat.lt_of_succ_lt hi)]

/-- Up to 16 bits can be read back from the register. -/
theorem topBits_inj {u v : List Bool} (hlen : u.length = v.length) (hu : u.length ≤ 16) (h : topBits u = topBits v) :
    u = v := by
  refine List.ext_getElem hlen fun i hiu hiv => ?_
  have hbit := congrArg (·.getMsbD i) h
  simp only [topBits_getMsbD _ (hiu.trans_le hu)] at hbit
  rwa [List.getD_eq_getElem _ _ hiu, List.getD_eq_getElem _ _ hiv] at hbit

/-- Fifteen bits leave bit 0 clear, so a shift down loses nothing. -/
theorem topBits_ushiftRight_shiftLeft {u : List Bool} (hu : u.length < 16) : (topBits u >>> 1) <<< 1 = topBits u := by
  refine BitVec.eq_of_getMsbD_eq fun i hi => ?_
  rw [BitVec.getMsbD_shiftLeft, BitVec.getMsbD_ushiftRight]
  obtain rfl | hlt : i = 15 ∨ i + 1 < 16 := by omega
  · have hlast : u.getD 15 false = false := List.getD_eq_default _ _ (by omega)
    simp only [topBits_getMsbD u (by decide : 15 < 16), hlast, Nat.reduceAdd, lt_self_iff_false, decide_false,
      Bool.false_and]
  · simp [hlt]

/-- Folding up to 16 bits in is folding them in at once and shifting them out. -/
theorem foldl_crcBit (poly r : Half) {u : List Bool} (hu : u.length ≤ 16) :
    u.foldl (crcBit poly) r = crcShifts poly u.length (r ^^^ topBits u) := by
  induction u generalizing r with
  | nil => exact (BitVec.xor_zero).symm
  | cons b u ih =>
    rw [List.length_cons] at hu
    have hback : (topBits u >>> 1) <<< 1 = topBits u := topBits_ushiftRight_shiftLeft (by omega)
    have hclear : (topBits u >>> 1).getLsbD 15 = false := by simp
    calc (b :: u).foldl (crcBit poly) r = crcShifts poly u.length (crcBit poly r b ^^^ topBits u) := ih _ (by omega)
      _ = crcShifts poly u.length (crcShift poly (r ^^^ topBit b) ^^^ crcShift poly (topBits u >>> 1)) := by
        rw [crcShift_of_clear hclear, hback, crcBit]
      _ = crcShifts poly (b :: u).length (r ^^^ topBits (b :: u)) := by
        rw [← crcShift_xor, BitVec.xor_assoc]; rfl

/-- The bits of one byte, most significant first. -/
def byteBits (b : Byte) : List Bool := (List.range 8).map fun j => b.getMsbD j

theorem topBits_byteBits (b : Byte) : topBits (byteBits b) = b.setWidth 16 <<< 8 := by
  refine BitVec.eq_of_getMsbD_eq fun i hi => ?_
  rw [topBits_getMsbD _ hi]
  obtain hlow | hhigh := Nat.lt_or_ge i 8
  · simp [byteBits, hlow, BitVec.getMsbD_shiftLeft]
  · simp [byteBits, hhigh]

@[simp] theorem byteBits_length (b : Byte) : (byteBits b).length = 8 := rfl

theorem byteBits_injective : Function.Injective byteBits := by
  intro a b h
  refine BitVec.eq_of_getMsbD_eq fun i hi => ?_
  exact List.map_inj_left.1 h i (List.mem_range.2 hi)

theorem foldl_crcBit_byteBits (poly r : Half) (b : Byte) : (byteBits b).foldl (crcBit poly) r = crcByte poly r b := by
  rw [foldl_crcBit poly r (by simp), topBits_byteBits, byteBits_length, ← crcByteSerial_eq_crcByte, crcByteSerial]

theorem bitsOf_cons (b : Byte) (s : List Byte) : bitsOf (b :: s) = byteBits b ++ bitsOf s := List.flatMap_cons

theorem bitsOf_append (s t : List Byte) : bitsOf (s ++ t) = bitsOf s ++ bitsOf t := List.flatMap_append

/-- The checksum is taken bit by bit. -/
theorem crcFrom_eq_foldl_crcBit (poly r : Half) (s : List Byte) :
    crcFrom poly r s = (bitsOf s).foldl (crcBit poly) r := by
  induction s generalizing r with
  | nil => rfl
  | cons b s ih => rw [crcFrom_cons, ih, bitsOf_cons, List.foldl_append, foldl_crcBit_byteBits]

/-! ## Bursts (property (d)) -/

section Burst

variable {poly : Half}

/-- Registers that differ still differ after any equal input. -/
theorem foldl_crcBit_injective (hpoly : poly.getLsbD 0 = true) (q : List Bool) :
    Function.Injective fun r => q.foldl (crcBit poly) r := by
  induction q with
  | nil => exact fun _ _ h => h
  | cons b q ih => exact ih.comp fun x y h => (BitVec.xor_left_inj _).1 (crcShift_injective hpoly h)

/-- Two different inputs of equal length, 16 bits at most, take a register to different values. -/
theorem foldl_crcBit_ne (hpoly : poly.getLsbD 0 = true) {u v : List Bool} (hlen : u.length = v.length)
    (hu : u.length ≤ 16) (hne : u ≠ v) (r : Half) : u.foldl (crcBit poly) r ≠ v.foldl (crcBit poly) r := by
  intro h
  rw [foldl_crcBit poly r hu, foldl_crcBit poly r (hlen ▸ hu), ← hlen] at h
  exact hne (topBits_inj hlen hu ((BitVec.xor_right_inj _).1 (crcShifts_injective hpoly _ h)))

end Burst

/-- Settles O21: the burst takes the register to two different values, and the rest keeps them apart. -/
theorem crcDetectsEveryShortBurst : Obligations.CrcDetectsEveryShortBurst := by
  intro c x y p u v q hpoly hx hy hlen hu hne heq
  rw [crc16, crc16, crcFrom_eq_foldl_crcBit, crcFrom_eq_foldl_crcBit, hx, hy] at heq
  simp only [List.foldl_append] at heq
  exact foldl_crcBit_ne hpoly hlen hu hne _ (foldl_crcBit_injective hpoly q heq)

/-- Two sequences that differ in one byte only have different checksums. -/
theorem crc16_append_cons_ne {c : Config} (hpoly : c.crcPoly.getLsbD 0 = true) (s t : List Byte) {a b : Byte}
    (hab : a ≠ b) : crc16 c (s ++ a :: t) ≠ crc16 c (s ++ b :: t) := by
  refine crcDetectsEveryShortBurst c _ _ (bitsOf s) (byteBits a) (byteBits b) (bitsOf t) hpoly ?_ ?_ rfl (by simp)
    (byteBits_injective.ne hab)
  · rw [bitsOf_append, bitsOf_cons, List.append_assoc]
  · rw [bitsOf_append, bitsOf_cons, List.append_assoc]

end Sys2Proof.Machine
end

section
/-! SUPPORT. A clean stream with one byte changed (44_scanner.md section 5, property (c)): the frame the byte is in
fails a checksum, and every other frame is found. -/

namespace Sys2Proof.Machine

/-! ## One byte changed -/

section Set

variable {l : List Byte} {i j : Nat} {b : Byte}

theorem byteAt_set_self (hi : i < l.length) : byteAt (l.set i b) i = b := by simp [byteAt, List.getD, hi]

theorem byteAt_set_of_ne (h : i ≠ j) : byteAt (l.set i b) j = byteAt l j := by simp [byteAt, List.getD, h]

theorem rd16le_set_of_outside (h : i < j ∨ j + 1 < i) : rd16le (l.set i b) j = rd16le l j := by
  rw [rd16le, rd16le, byteAt_set_of_ne (by omega), byteAt_set_of_ne (by omega)]

/-- A changed byte changes the field it is in. -/
theorem rd16le_set_ne (hi : i < l.length) (hb : b ≠ byteAt l i) (hij : i = j ∨ i = j + 1) :
    rd16le (l.set i b) j ≠ rd16le l j := by
  obtain rfl | rfl := hij
  · rwa [rd16le, rd16le, byteAt_set_of_ne (Nat.ne_add_one i), byteAt_set_self hi, ne_eq, BitVec.append_right_inj]
  · rwa [rd16le, rd16le, byteAt_set_of_ne (Nat.add_one_ne_self j), byteAt_set_self hi, ne_eq, BitVec.append_left_inj]

end Set

section Flip

variable {c : Config} {l : List Byte} {i : Nat} {b : Byte}

/-- A changed byte changes the checksum. -/
theorem crc16_set_ne (hpoly : c.crcPoly.getLsbD 0 = true) (hi : i < l.length) (hb : b ≠ byteAt l i) :
    crc16 c (l.set i b) ≠ crc16 c l := by
  have hsplit : l = l.take i ++ byteAt l i :: l.drop (i + 1) := by
    rw [byteAt, List.getD_eq_getElem _ _ hi, List.getElem_cons_drop, List.take_append_drop]
  have hset : l.set i b = l.take i ++ b :: l.drop (i + 1) := List.set_eq_take_append_cons_drop.trans (if_pos hi)
  rw [hset]
  conv_rhs => rw [hsplit]
  exact crc16_append_cons_ne hpoly _ _ hb

/-- Data followed by its checksum: a byte changed in either makes them disagree. -/
theorem crc16_ne_rd16le_set {a m : Nat} (hpoly : c.crcPoly.getLsbD 0 = true)
    (hcrc : crc16 c ((l.drop a).take m) = rd16le l (a + m)) (hlen : a + m + 2 ≤ l.length) (hai : a ≤ i)
    (him : i < a + m + 2) (hb : b ≠ byteAt l i) :
    crc16 c (((l.set i b).drop a).take m) ≠ rd16le (l.set i b) (a + m) := by
  have hdata : ((l.set i b).drop a).take m = ((l.drop a).take m).set (i - a) b := by
    rw [List.drop_set, if_neg hai.not_gt, List.take_set]
  rw [hdata]
  obtain hin | hout := Nat.lt_or_ge i (a + m)
  · rw [rd16le_set_of_outside (.inl hin), ← hcrc]
    have hbyte : byteAt ((l.drop a).take m) (i - a) = byteAt l i := by
      have htake : byteAt ((l.drop a).take m) (i - a) = byteAt (l.drop a) (i - a) :=
        byteAt_eq_of_take_eq (n := m) (by simp) (by omega)
      rw [htake, byteAt_drop, Nat.add_sub_cancel' hai]
    exact crc16_set_ne hpoly (by simp; omega) (hbyte ▸ hb)
  · rw [List.set_eq_of_length_le (by simp; omega), hcrc]
    exact (rd16le_set_ne (by omega) hb (by omega)).symm

/-- Where ten bytes are left and no intact header stands, the decoder reports the preamble or the header checksum. -/
theorem decodeFrame_error_of_not_headerIntact (hlen : 10 ≤ l.length)
    (h : ¬ HeaderIntact c l) : ∃ k, k ≠ .incompleteFrame ∧ decodeFrame c l = .error k := by
  obtain ⟨hshort, -⟩ | ⟨-, -, he⟩ | ⟨-, -, -, -, he⟩ | hi := decodeFrame_cases c l
  · exact absurd hlen hshort.not_ge
  · exact ⟨_, by decide, he⟩
  · exact ⟨_, by decide, he⟩
  · exact absurd hi h

/-- A frame the decoder accepts is rejected for a checksum or its preamble when one of its bytes is changed. -/
theorem decodeFrame_set_eq_error {f : Frame} (hpoly : c.crcPoly.getLsbD 0 = true) (hd : decodeFrame c l = .ok f)
    (hi : i < f.total) (hb : b ≠ byteAt l i) :
    ∃ k, k ≠ .incompleteFrame ∧ decodeFrame c (l.set i b) = .error k := by
  obtain ⟨htotal, hsize⟩ := decodeFrame_ok_total hd
  have hhead := headerIntact_of_decodeFrame_ok hd
  have hten := hhead.length
  by_cases hhead' : HeaderIntact c (l.set i b)
  case neg => exact decodeFrame_error_of_not_headerIntact (by rwa [List.length_set]) hhead'
  refine ⟨.invalidPayloadCrc, nofun, ?_⟩
  have h8 : 8 ≤ i := by
    by_contra hlt
    exact crc16_ne_rd16le_set (a := 0) (m := 6) hpoly hhead.crc (by omega) (Nat.zero_le i) (by omega) hb hhead'.crc
  have hfield : rd16le (l.set i b) 4 = rd16le l 4 := rd16le_set_of_outside (by omega)
  have hpay : crc16 c ((l.drop 8).take (rd16le l 4).toNat) = rd16le l (8 + (rd16le l 4).toNat) := by
    by_contra hne
    rw [hhead.decodeFrame_eq, if_neg hsize.not_gt, if_pos hne] at hd
    cases hd
  rw [htotal] at hi
  simp only [candidateSize] at hi hsize
  rw [hhead'.decodeFrame_eq, candidateSize, hfield, List.length_set, if_neg hsize.not_gt, if_pos]
  exact crc16_ne_rd16le_set hpoly hpay (by omega) h8 (by omega) hb

end Flip

/-! ## The frames of a damaged stream -/

/-- The frame found at `h` holds byte `k` of the stream. -/
def hitHolds (k : Nat) (h : Nat × Frame) : Bool := decide (h.1 ≤ k ∧ k < h.1 + h.2.total)

/-- A stream in which nothing decodes holds no frame. -/
theorem scanStream_of_no_frame {c : Config} {w : List Byte} (hno : ∀ q f, decodeFrame c (w.drop q) ≠ .ok f) :
    (scanStream c w).hits = [] ∧ (scanStream c w).count = 0 := by
  have hticks : ∀ k, (scanTicks c w k scanStart).hits = [] := fun k => by
    induction k with
    | zero => rfl
    | succ k ih =>
      rw [scanTicks_add]
      obtain ⟨-, -, ht⟩ | ⟨-, -, -, ht⟩ | ⟨-, -, -, ht⟩ | ⟨-, -, ht⟩ | ⟨-, -, f, hd, -⟩ | ⟨-, -, -, ht⟩ |
        ⟨-, -, -, ht⟩ | ⟨-, ht⟩ := scanTick_cases c w (scanTicks c w k scanStart)
      case inr.inr.inr.inr.inl => exact absurd hd (hno _ f)
      all_goals exact (congrArg ScanRun.hits ht).trans ih
  have hhits : (scanStream c w).hits = [] := hticks _
  exact ⟨hhits, by rw [(scanStream_bounded c w).count_eq, hhits, List.length_nil]⟩

theorem mem_starts_cons {c : Config} {f : Half × List Byte} {fs : List (Half × List Byte)} {q : Nat} :
    q ∈ (cleanHits c 0 (f :: fs)).map Prod.fst ↔
      q = 0 ∨ ∃ x ∈ (cleanHits c 0 fs).map Prod.fst, q = x + (frameBytes c f.1 f.2).length := by
  simp [cleanHits_cons, shiftHits, eq_comm]

/-- Where ten bytes are left, a position is passed that decodes to any error but `IncompleteFrame`. -/
theorem passed_of_error {c : Config} {w : List Byte} {q : Nat} (hroom : q + 10 ≤ w.length)
    (h : ∃ k, k ≠ .incompleteFrame ∧ decodeFrame c (w.drop q) = .error k) : Passed c w q := by
  cases hpre : preambleAt c w q with
  | false => exact .inl ⟨by omega, hpre⟩
  | true => exact .inr ⟨by omega, hpre, h⟩

section Damaged

variable {c : Config} {f : Half × List Byte} {fs : List (Half × List Byte)} {k : Nat} {b : Byte} {w : List Byte}

/-- With the changed byte in the first frame, nothing decodes within that frame: at its start a checksum fails, and
behind its start no header is intact. -/
theorem decodeFrame_error_in_first_damaged (hpoly : c.crcPoly.getLsbD 0 = true) (hf : f.2.length ≤ 65535)
    (hk : k < (frameBytes c f.1 f.2).length) (hb : b ≠ byteAt (cleanStream c (f :: fs)) k)
    (hw : w = (cleanStream c (f :: fs)).set k b)
    (hstarts : ∀ q, HeaderIntact c (w.drop q) → q ∈ (cleanHits c 0 (f :: fs)).map Prod.fst) {q : Nat}
    (hq : q < (frameBytes c f.1 f.2).length) (hroom : q + 10 ≤ w.length) :
    ∃ e, e ≠ .incompleteFrame ∧ decodeFrame c (w.drop q) = .error e := by
  obtain rfl | hpos := Nat.eq_zero_or_pos q
  · have hd : decodeFrame c (cleanStream c (f :: fs)) = .ok (frameOf c f.1 f.2) := by
      rw [cleanStream_cons]
      exact decodeFrame_frameBytes_append c f.1 hf _
    rw [hw]
    exact decodeFrame_set_eq_error hpoly hd (by rwa [frameOf_total hf]) hb
  · refine decodeFrame_error_of_not_headerIntact (by rw [List.length_drop]; omega) fun hi => ?_
    obtain rfl | ⟨x, -, rfl⟩ := mem_starts_cons.1 (hstarts q hi)
    · exact absurd hpos (Nat.lt_irrefl 0)
    · omega

/-- With the changed byte in the first frame, that frame is lost and the rest of the stream is found. -/
theorem scanStream_of_first_damaged (hpoly : c.crcPoly.getLsbD 0 = true) (hfs : ∀ g ∈ f :: fs, g.2.length ≤ 65535)
    (hk : k < (frameBytes c f.1 f.2).length) (hb : b ≠ byteAt (cleanStream c (f :: fs)) k)
    (hw : w = (cleanStream c (f :: fs)).set k b)
    (hstarts : ∀ q, HeaderIntact c (w.drop q) → q ∈ (cleanHits c 0 (f :: fs)).map Prod.fst) :
    (scanStream c w).hits = shiftHits (frameBytes c f.1 f.2).length (cleanHits c 0 fs) ∧
    (scanStream c w).count = fs.length := by
  obtain ⟨hf, hfs⟩ := List.forall_mem_cons.1 hfs
  have hfails := fun {q} => decodeFrame_error_in_first_damaged (q := q) hpoly hf hk hb hw hstarts
  have hwlen : w.length = (frameBytes c f.1 f.2).length + (cleanStream c fs).length := by
    rw [hw, List.length_set, cleanStream_cons, List.length_append]
  cases fs with
  | nil =>
    rw [cleanStream_nil, List.length_nil] at hwlen
    refine scanStream_of_no_frame fun q g hg => ?_
    have hlen := (headerIntact_of_decodeFrame_ok hg).length
    rw [List.length_drop] at hlen
    obtain ⟨e, -, he⟩ := hfails (q := q) (by omega) (by omega)
    cases he.symm.trans hg
  | cons g gs =>
    have hten : 10 ≤ (cleanStream c (g :: gs)).length := by
      rw [cleanStream_cons, List.length_append, frameBytes_length]
      omega
    have hpassed : ∀ q < (frameBytes c f.1 f.2).length, Passed c w q := fun q hq =>
      passed_of_error (by omega) (hfails hq (by omega))
    have hrest : w.drop (frameBytes c f.1 f.2).length = cleanStream c (g :: gs) := by
      rw [hw, List.drop_set, if_pos hk, cleanStream_cons, List.drop_left]
    rw [scanStream_eq_behind (reaches_searching_of_passed (hs := []) (Nat.zero_le _) fun q _ hq => hpassed q hq), hrest,
      behind_nil_eq (scanStream_phase ..), cleanStreamIsFoundWhole c (g :: gs) hfs]
    exact ⟨rfl, rfl⟩

/-- The frame at the start holds byte `k` when the byte lies before the frame's end. -/
theorem hitHolds_zero_frameOf (hf : f.2.length ≤ 65535) (k : Nat) :
    hitHolds k (0, frameOf c f.1 f.2) = decide (k < (frameBytes c f.1 f.2).length) := by
  simp [hitHolds, frameOf_total hf]

/-- The findings that do not hold byte `k` move with the offset, and so does the byte. -/
theorem filter_shiftHits {n : Nat} (hn : n ≤ k) (hs : List (Nat × Frame)) :
    (shiftHits n hs).filter (fun h => !hitHolds k h) = shiftHits n (hs.filter fun h => !hitHolds (k - n) h) := by
  rw [shiftHits, shiftHits, List.filter_map]
  refine congrArg _ (List.filter_congr fun h _ => ?_)
  simp only [Function.comp_apply, hitHolds]
  congr 2
  exact propext (by omega)

/-- A finding that begins behind byte `k` does not hold it. -/
theorem filter_shiftHits_of_lt {n : Nat} (hn : k < n) (hs : List (Nat × Frame)) :
    (shiftHits n hs).filter (fun h => !hitHolds k h) = shiftHits n hs := by
  refine List.filter_eq_self.2 fun h hmem => ?_
  obtain ⟨x, -, rfl⟩ := List.mem_map.1 hmem
  simp only [hitHolds, Bool.not_eq_true', decide_eq_false_iff_not]
  omega

theorem scanStream_of_damaged (hpoly : c.crcPoly.getLsbD 0 = true) (hfs : ∀ g ∈ fs, g.2.length ≤ 65535)
    (hk : k < (cleanStream c fs).length) (hb : b ≠ byteAt (cleanStream c fs) k)
    (hstarts : ∀ q, HeaderIntact c (((cleanStream c fs).set k b).drop q) → q ∈ (cleanHits c 0 fs).map Prod.fst) :
    (scanStream c ((cleanStream c fs).set k b)).hits = (cleanHits c 0 fs).filter (fun h => !hitHolds k h) ∧
    (scanStream c ((cleanStream c fs).set k b)).count + 1 = fs.length := by
  induction fs generalizing k with
  | nil => exact absurd hk (Nat.not_lt_zero k)
  | cons f fs ih =>
    have hf : f.2.length ≤ 65535 := hfs f List.mem_cons_self
    obtain hlt | hge := Nat.lt_or_ge k (frameBytes c f.1 f.2).length
    · obtain ⟨hhits, hcount⟩ := scanStream_of_first_damaged hpoly hfs hlt hb rfl hstarts
      rw [hhits, hcount, cleanHits_cons, List.filter_cons_of_neg, filter_shiftHits_of_lt hlt]
      · exact ⟨rfl, rfl⟩
      · rw [hitHolds_zero_frameOf hf, decide_eq_true hlt]; decide
    · have hset : (cleanStream c (f :: fs)).set k b =
          frameBytes c f.1 f.2 ++ (cleanStream c fs).set (k - (frameBytes c f.1 f.2).length) b := by
        rw [cleanStream_cons, List.set_append_right _ _ hge]
      rw [cleanStream_cons, List.length_append] at hk
      rw [cleanStream_cons, byteAt_append_right hge] at hb
      obtain ⟨hhits, hcount⟩ := ih (k := k - (frameBytes c f.1 f.2).length)
        (fun g hg => hfs g (List.mem_cons_of_mem f hg)) (by omega) hb fun q hi => by
          have hi' : HeaderIntact c (((cleanStream c (f :: fs)).set k b).drop ((frameBytes c f.1 f.2).length + q)) := by
            rwa [hset, ← List.drop_drop, List.drop_left]
          have hten := frameBytes_length c f.1 f.2
          obtain h0 | ⟨x, hx, hxq⟩ := mem_starts_cons.1 (hstarts _ hi')
          · omega
          · obtain rfl : q = x := by omega
            exact hx
      rw [hset, scanStream_frameBytes_append c f.1 hf, cleanHits_cons, List.filter_cons_of_pos, filter_shiftHits hge,
        ← hhits, List.length_cons, ← hcount]
      · exact ⟨rfl, congrArg (· + 1) (Nat.add_comm 1 _)⟩
      · rw [hitHolds_zero_frameOf hf, decide_eq_false hge.not_gt]; rfl

end Damaged

/-- Settles O51, by induction on the frames before the damaged one; a flipped byte is a changed byte. -/
theorem oneFlippedByteLosesOneFrame : Obligations.OneFlippedByteLosesOneFrame := by
  rintro c fs k w' hpoly hfs hk rfl hfalse
  have hflip : ~~~ byteAt (cleanStream c fs) k ≠ byteAt (cleanStream c fs) k :=
    BitVec.not_self_ne (by decide)
  refine scanStream_of_damaged hpoly hfs hk hflip fun q hi => hfalse q ?_ hi.preambleAt hi.crc
  have hlen := hi.length
  rw [List.length_drop] at hlen
  omega

end Sys2Proof.Machine
end

section
/-! SUPPORT. Decoder and encoder agree (30_encoding.md sections 3 and 4): the fields of the encoder's words, and what a
descriptor that decodes is made of. -/

namespace Sys2Proof.Machine

/-! ## The rows of the opcode map (R97) -/

theorem opRows_pattern_injective : ∀ r₁ ∈ opRows, ∀ r₂ ∈ opRows, r₁.pattern.toNat = r₂.pattern.toNat → r₁ = r₂ := by
  decide

/-- Settles O2: a matching row has the word's `OPCODE`, and no two rows have the same. -/
theorem opcodeRowsAreDisjoint : Obligations.OpcodeRowsAreDisjoint := by
  intro r₁ h₁ r₂ h₂ w hm₁ hm₂
  obtain ⟨hop₁, -⟩ := (OpRow.matches_iff h₁ w).1 hm₁
  obtain ⟨hop₂, -⟩ := (OpRow.matches_iff h₂ w).1 hm₂
  exact opRows_pattern_injective r₁ h₁ r₂ h₂ (hop₁.symm.trans hop₂)

theorem opcode_lt (i : Instr) : i.opcode.toNat < 256 := by cases i <;> simp [Instr.opcode]

/-- The row of a command has its opcode. -/
theorem opRows_pattern_eq_opcode (i : Instr) : ∀ r ∈ opRows, r.op = i.op → r.pattern = i.opcode := by
  cases i <;> simp [opRows, Instr.op, Instr.opcode]

/-! ## `W0` (R95) -/

/-- Bit `k` of the flags is the one flag that stands there. -/
theorem flag_getLsbD (b : Bool) : ∀ k < 32,
    (if b then 0x100 else 0 : Word).getLsbD k = (b && decide (k = 8)) ∧
    (if b then 0x200 else 0 : Word).getLsbD k = (b && decide (k = 9)) ∧
    (if b then 0x400 else 0 : Word).getLsbD k = (b && decide (k = 10)) := by
  cases b <;> decide

theorem packW0_getLsbD (op : Word) (ap src sink : Bool) {k : Nat} (hk : k < 32) :
    (packW0 op ap src sink).getLsbD k =
      (op.getLsbD k || (ap && decide (k = 8)) || (src && decide (k = 9)) || (sink && decide (k = 10))) := by
  rw [packW0, BitVec.getLsbD_or, BitVec.getLsbD_or, BitVec.getLsbD_or, (flag_getLsbD ap k hk).1,
    (flag_getLsbD src k hk).2.1, (flag_getLsbD sink k hk).2.2]

section PackW0

variable {op : Word} (hop : op.toNat < 256)
include hop

theorem opcode_getLsbD {k : Nat} (hk : 8 ≤ k) : op.getLsbD k = false :=
  Nat.testBit_lt_two_pow (hop.trans_le (Nat.pow_le_pow_right (n := 2) (by decide) hk))

theorem packW0_ap (ap src sink : Bool) : (packW0 op ap src sink).getLsbD 8 = ap := by
  rw [packW0_getLsbD _ _ _ _ (by decide), opcode_getLsbD hop (by decide)]
  simp

theorem packW0_src (ap src sink : Bool) : (packW0 op ap src sink).getLsbD 9 = src := by
  rw [packW0_getLsbD _ _ _ _ (by decide), opcode_getLsbD hop (by decide)]
  simp

theorem packW0_sink (ap src sink : Bool) : (packW0 op ap src sink).getLsbD 10 = sink := by
  rw [packW0_getLsbD _ _ _ _ (by decide), opcode_getLsbD hop (by decide)]
  simp

/-- The mask of R96 for an ignored `AP` clears bit 8 only. -/
theorem packW0_and_clear_ap (ap src sink : Bool) : packW0 op ap src sink &&& 0xFFFFFEFF = packW0 op false src sink := by
  have hmask : ∀ k < 32, (0xFFFFFEFF : Word).getLsbD k = !decide (k = 8) := by decide
  refine BitVec.eq_of_getLsbD_eq fun k hk => ?_
  rw [BitVec.getLsbD_and, hmask k hk, packW0_getLsbD _ _ _ _ hk, packW0_getLsbD _ _ _ _ hk]
  by_cases h8 : k = 8
  · rw [h8, opcode_getLsbD hop le_rfl]
    simp
  · simp [h8]

end PackW0

/-- A word without reserved bits is its opcode and its three flags. -/
theorem eq_packW0 {w op : Word} (hop : w.toNat % 256 = op.toNat) (hw : w.toNat < 2048) :
    w = packW0 op (w.getLsbD 8) (w.getLsbD 9) (w.getLsbD 10) := by
  have hop256 : op.toNat < 256 := hop ▸ Nat.mod_lt _ (by decide)
  have hlow := (mod_256_eq_iff_getLsbD w op).1 (hop.trans (Nat.mod_eq_of_lt hop256).symm)
  have hhigh := (lt_2048_iff_getLsbD w).1 hw
  refine BitVec.eq_of_getLsbD_eq fun k hk => ?_
  rw [packW0_getLsbD _ _ _ _ hk]
  obtain hlt | h8 := Nat.lt_or_ge k 8
  · simp [hlow k hlt, show k ≠ 8 by omega, show k ≠ 9 by omega, show k ≠ 10 by omega]
  rw [opcode_getLsbD hop256 h8]
  obtain rfl | rfl | rfl | hge : k = 8 ∨ k = 9 ∨ k = 10 ∨ 11 ≤ k := by omega
  · simp
  · simp
  · simp
  · simp [hhigh k hge, show k ≠ 8 by omega, show k ≠ 9 by omega, show k ≠ 10 by omega]

/-! ## The encoder's words decode (R102) -/

section Fields

variable {op : Word} (hop : op.toNat < 256)
include hop

theorem encodeRef_ref (ref : Ref) (n : Word) : (encodeRef op ref n).ref = ref := by
  rw [Descriptor.ref, Descriptor.ap, encodeRef, packW0_ap hop]
  cases ref <;> rfl

theorem encodeWindow_window (w : WindowOp) (sink : Bool) : (encodeWindow op w sink).window = w := by
  cases w with
  | lin ref n =>
    have href : (encodeWindow op (.lin ref n) sink).ref = ref := by
      rw [Descriptor.ref, Descriptor.ap, encodeWindow, packW0_ap hop]
      cases ref <;> rfl
    rw [Descriptor.window, href, Descriptor.src, encodeWindow, packW0_src hop]
    rfl
  | cb =>
    rw [Descriptor.window, Descriptor.src, encodeWindow, packW0_src hop]
    rfl

theorem encodeWindow_sink (w : WindowOp) (sink : Bool) : (encodeWindow op w sink).sink = sink := by
  cases w <;> exact packW0_sink hop _ _ _

end Fields

/-- The encoding of a command selects its row of the opcode map. -/
theorem selectOp_encode (i : Instr) : selectOp (encode i).w0 = some i.op := by
  cases i with
  | crc16 ref n => exact Laws.FitsRow.crc16 ref n
  | cbInit ref n => exact Laws.FitsRow.cbInit ref n
  | cbAppend ref n => exact Laws.FitsRow.cbAppend ref n
  | cbConsume ref n => exact Laws.FitsRow.cbConsume ref n
  | encInit ref n => exact Laws.FitsRow.encInit ref n
  | encBuild ref n => exact Laws.FitsRow.encBuild ref n
  | frameSize n => exact Laws.FitsRow.frameSize n
  | encSetCounter n => exact Laws.FitsRow.encSetCounter n
  | decode w => exact Laws.FitsRow.decode w
  | scan w sink => exact Laws.FitsRow.scan w sink
  | rdReg n => exact Laws.FitsRow.rdReg n

/-- Settles O3: the word selects the command's row, and the fields give the operands back. -/
theorem decodeOfEncode : Obligations.DecodeOfEncode := by
  intro i hwf
  have hop := opcode_lt i
  rw [decode, selectOp_encode]
  cases i with
  | crc16 | cbInit | cbAppend | cbConsume | encInit | encBuild =>
    simp only [Instr.op, encode, encodeRef_ref hop]
    rfl
  | frameSize | encSetCounter => rfl
  | decode w => simp only [Instr.op, encode, encodeWindow_window hop]
  | scan w sink => simp only [Instr.op, encode, encodeWindow_window hop, encodeWindow_sink hop]
  | rdReg n => exact if_pos hwf

/-! ## What a descriptor that decodes is made of (R96) -/

section Decoded

variable {d : Descriptor} {i : Instr}

/-- The selected row of a word is the row of its opcode, and the word sets no reserved bit and no unused flag. -/
theorem opcode_of_selectOp {w : Word} (h : selectOp w = some i.op) :
    w.toNat % 256 = i.opcode.toNat ∧ w.toNat < 2048 ∧ ¬ setsUnusedFlag w := by
  obtain ⟨r, hfind, hop⟩ := Option.map_eq_some_iff.1 h
  have hr : r ∈ opRows := List.mem_of_find?_eq_some hfind
  have hm : r.matches w = true := List.find?_some (p := fun r : OpRow => r.matches w) hfind
  rw [← opRows_pattern_eq_opcode i r hr hop]
  exact (OpRow.matches_iff_not_setsUnusedFlag hr w).1 hm

/-- Every operand of the command is what its field of the descriptor says (R95, R96). -/
def operandsFrom (d : Descriptor) : Instr → Prop
  | .crc16 ref n | .cbInit ref n | .cbAppend ref n | .cbConsume ref n | .encInit ref n | .encBuild ref n =>
    ref = d.ref ∧ n = d.w2
  | .frameSize n | .encSetCounter n | .rdReg n => n = d.w2
  | .decode w => w = d.window
  | .scan w sink => w = d.window ∧ sink = d.sink

/-- What decodes is well formed, of the selected row, and takes its operands from the fields. -/
theorem decode_eq_ok (h : decode d = .ok i) : selectOp d.w0 = some i.op ∧ i.wf = true ∧ operandsFrom d i := by
  rw [decode] at h
  split at h
  case h_12 =>
    split at h
    · cases h
      exact ⟨‹_›, ‹_›, rfl⟩
    · cases h
  all_goals cases h
  all_goals exact ⟨‹_›, rfl, by simp [operandsFrom]⟩

/-- The descriptor `e` has the fields of `d` that R96 lets a command use. -/
def keepsUsedFields (d e : Descriptor) : Prop :=
  (d.src = false → e.w0 = d.w0 ∧ e.w2 = d.w2 ∧ (d.ap = true → e.w1 = d.w1)) ∧
  (d.src = true → e.w0 = d.w0 &&& 0xFFFFFEFF)

theorem ref_isSome (d : Descriptor) : d.ref.isSome = d.ap := by rw [Descriptor.ref]; cases d.ap <;> rfl

theorem ref_getD (hap : d.ap = true) : d.ref.getD 0 = d.w1 := by rw [Descriptor.ref, if_pos hap]; rfl

section Encoded

variable {op : Word} (hw : d.w0 = packW0 op d.ap d.src d.sink)
include hw

theorem keepsUsedFields_encodeRef (hsrc : d.src = false) (hsink : d.sink = false) :
    keepsUsedFields d (encodeRef op d.ref d.w2) := by
  refine ⟨fun _ => ⟨?_, rfl, ref_getD⟩, fun h => nomatch hsrc.symm.trans h⟩
  rw [hw, hsrc, hsink, ← ref_isSome]
  rfl

theorem keepsUsedFields_encodeNum (hap : d.ap = false) (hsrc : d.src = false) (hsink : d.sink = false) :
    keepsUsedFields d (encodeNum op d.w2) := by
  refine ⟨fun _ => ⟨?_, rfl, fun h => nomatch hap.symm.trans h⟩, fun h => nomatch hsrc.symm.trans h⟩
  rw [hw, hap, hsrc, hsink]
  rfl

theorem keepsUsedFields_encodeWindow (hop : op.toNat < 256) : keepsUsedFields d (encodeWindow op d.window d.sink) := by
  cases hsrc : d.src with
  | false =>
    have hwin : d.window = .lin d.ref d.w2 := by rw [Descriptor.window, hsrc]; rfl
    rw [hwin]
    refine ⟨fun _ => ⟨?_, rfl, ref_getD⟩, fun h => nomatch hsrc.symm.trans h⟩
    rw [hw, hsrc, ← ref_isSome]
    rfl
  | true =>
    have hwin : d.window = .cb := by rw [Descriptor.window, hsrc]; rfl
    refine ⟨fun h => (nomatch hsrc.symm.trans h), fun _ => ?_⟩
    rw [hwin, hw, hsrc, packW0_and_clear_ap hop]
    rfl

end Encoded

/-- A flag that the command of the word's opcode does not use is clear. -/
theorem unused_flags_clear (hop : d.w0.toNat % 256 = i.opcode.toNat) (h : ¬ setsUnusedFlag d.w0) :
    (i.opcode.toNat ∈ [0x22, 0x23, 0x50] → d.ap = false) ∧ (i.opcode.toNat ∉ [0x30, 0x40] → d.src = false) ∧
      (i.opcode.toNat ≠ 0x40 → d.sink = false) := by
  rw [setsUnusedFlag, hop] at h
  simp only [not_or, not_and'] at h
  obtain ⟨hap, hsrc, hsink⟩ := h
  exact ⟨fun hu => eq_false_of_ne_true (hap hu), fun hu => eq_false_of_ne_true (hsrc hu),
    fun hu => eq_false_of_ne_true (hsink hu)⟩

end Decoded

/-- Settles O4: the word is its opcode and its flags, the flags a command does not use are clear, and the encoder writes
the same fields. -/
theorem decodingDropsOnlyIgnoredFields : Obligations.DecodingDropsOnlyIgnoredFields := by
  intro d i h
  obtain ⟨hsel, hwf, hops⟩ := decode_eq_ok h
  obtain ⟨hop, hres, hflags⟩ := opcode_of_selectOp hsel
  obtain ⟨hap, hsrc, hsink⟩ := unused_flags_clear hop hflags
  have hw : d.w0 = packW0 i.opcode d.ap d.src d.sink := eq_packW0 hop hres
  refine ⟨hwf, show keepsUsedFields d (encode i) from ?_⟩
  cases i with
  | crc16 | cbInit | cbAppend | cbConsume | encInit | encBuild =>
    obtain ⟨rfl, rfl⟩ := hops
    exact keepsUsedFields_encodeRef hw (hsrc (by simp [Instr.opcode])) (hsink (by simp [Instr.opcode]))
  | frameSize | encSetCounter | rdReg =>
    obtain rfl := hops
    exact keepsUsedFields_encodeNum hw (hap (by simp [Instr.opcode])) (hsrc (by simp [Instr.opcode]))
      (hsink (by simp [Instr.opcode]))
  | decode w =>
    obtain rfl := hops
    have hkeep := keepsUsedFields_encodeWindow hw (opcode_lt _)
    rwa [hsink (by simp [Instr.opcode])] at hkeep
  | scan w sink =>
    obtain ⟨rfl, rfl⟩ := hops
    exact keepsUsedFields_encodeWindow hw (opcode_lt _)

/-- Settles O1: ten descriptors, each decoded. -/
theorem wordsDecodeAsWritten : Obligations.WordsDecodeAsWritten := by
  unfold Obligations.WordsDecodeAsWritten
  decide

end Sys2Proof.Machine
end

section
/-! SUPPORT. The circular buffer's indexed copy as two contiguous moves (41_cbuf.md sections 3 and 4). -/

namespace Sys2Proof.Machine

/-- Up to the end of storage a ring runs on contiguously. -/
theorem ring_eq_span_of_lt {base cap start i : Nat} (hi : start + i < cap) :
    ring base cap start i = span (base + start) i := by
  rw [ring_apply, span_apply, Nat.mod_eq_of_lt hi, Nat.add_assoc]

/-- Behind the end of storage a ring runs on from its start. -/
theorem ring_eq_span_of_wrap {base cap start i : Nat} (hstart : start ≤ cap) (hi : i < cap) :
    ring base cap start (cap - start + i) = span base i := by
  have hturn : start + (cap - start + i) = i + cap := by omega
  rw [ring_apply, span_apply, hturn, Nat.add_mod_right, Nat.mod_eq_of_lt hi]

/-- The slots of at most one turn, from `start` on: those before the end of storage, then those from its start. -/
theorem ring_two_stretches {base cap start n : Nat} (hstart : start < cap) (hn : n ≤ cap) :
    (∀ i < min n (cap - start), ring base cap start i = span (base + start) i) ∧
    (∀ i < n - min n (cap - start), ring base cap start (min n (cap - start) + i) = span base i) := by
  refine ⟨fun i hi => ring_eq_span_of_lt (by omega), fun i hi => ?_⟩
  have hwrap : min n (cap - start) = cap - start := by omega
  rw [hwrap]
  exact ring_eq_span_of_wrap hstart.le (by omega)

/-- A store around a ring is a store up to the end of storage and one from its start. -/
theorem Memory.writeAt_ring (m : Memory) {base cap start n : Nat} {bs : List Byte} (hstart : start < cap) (hn : n ≤ cap)
    (hbs : bs.length = n) : m.writeAt (ring base cap start) bs =
      (m.writeAt (span (base + start)) (bs.take (min n (cap - start)))).writeAt (span base)
        (bs.drop (min n (cap - start))) := by
  obtain ⟨hfirst, hrest⟩ := ring_two_stretches (base := base) hstart hn
  have hlen : (bs.take (min n (cap - start))).length = min n (cap - start) := by simp [hbs]
  conv_lhs => rw [← List.take_append_drop (min n (cap - start)) bs, Memory.writeAt_append, hlen]
  rw [Memory.writeAt_congr m _ fun i hi => hfirst i (hlen ▸ hi)]
  exact Memory.writeAt_congr _ _ fun i hi => hrest i (by rwa [List.length_drop, hbs] at hi)

/-- A read around a ring is a read up to the end of storage and one from its start. -/
theorem Memory.readAt_ring (m : Memory) {base cap start n : Nat} (hstart : start < cap) (hn : n ≤ cap) :
    m.readAt (ring base cap start) n =
      m.readAt (span (base + start)) (min n (cap - start)) ++ m.readAt (span base) (n - min n (cap - start)) := by
  obtain ⟨hfirst, hrest⟩ := ring_two_stretches (base := base) hstart hn
  have hsplit : n = min n (cap - start) + (n - min n (cap - start)) := by omega
  conv_lhs => rw [hsplit, Memory.readAt_add]
  exact congrArg₂ (· ++ ·) (Memory.readAt_congr fun i hi => congrArg m.read (hfirst i hi))
    (Memory.readAt_congr fun i hi => congrArg m.read (hrest i hi))

/-- Settles O25: the tail slots and the head slots are rings of at most one turn. -/
theorem wrappedCopyIsTwoMoves : Obligations.WrappedCopyIsTwoMoves := by
  intro s a n h hv
  have hsum := State.free_add_occupied h
  obtain ⟨-, hvalid, -⟩ := h
  obtain ⟨-, happ, hcon, -, -⟩ := hvalid hv
  exact ⟨fun hn => Memory.writeAt_ring s.mem happ (by omega) (Memory.readAt_length ..),
    fun hn => Memory.readAt_ring s.mem hcon (by omega)⟩

end Sys2Proof.Machine
end

section
/-! SUPPORT. The frames the decoder accepts (43_decoder.md section 2), those the encoder writes among them, and a frame
ENC_BUILD has written (section 5). -/

namespace Sys2Proof.Machine

/-! ## Acceptance (30_encoding.md R87) -/

/-- Settles O36: past an intact header the decoder accepts when size and payload checksum agree, which is R87. -/
theorem decoderAcceptsExactlyValidFrames : Obligations.DecoderAcceptsExactlyValidFrames := by
  intro c w f
  constructor
  · intro hd
    have hi := headerIntact_of_decodeFrame_ok hd
    rw [hi.decodeFrame_eq] at hd
    split at hd
    · cases hd
    next hsize =>
      split at hd
      · cases hd
      next hcrc =>
        cases hd
        exact ⟨hi.preamble0, hi.preamble1,
          ⟨hi.length, Nat.le_of_not_lt hsize, hi.crc.symm, (not_not.1 hcrc).symm⟩, rfl⟩
  · rintro ⟨hpre0, hpre1, ⟨hlen, hsize, hcrc, hpay⟩, rfl⟩
    have hi : HeaderIntact c w := ⟨hlen, hpre0, hpre1, hcrc.symm⟩
    rw [hi.decodeFrame_eq, candidateSize, if_neg hsize.not_gt, if_neg (not_not.2 hpay.symm)]

/-- Settles O34: the decoder accepts the encoder's bytes, and the size field is at most `MAX_PAYLOAD`. -/
theorem encodedFramesAreWellFormedAndValid : Obligations.EncodedFramesAreWellFormedAndValid := by
  intro c k p hp
  have hmax := c.maxPayload.isLt
  have hd := decodeFrame_frameBytes c k (p := p) (by omega)
  obtain ⟨hpre0, hpre1, hvalid, -⟩ := (decoderAcceptsExactlyValidFrames c _ _).1 hd
  refine ⟨⟨hvalid.1, hpre0, hpre1, ?_⟩, hvalid⟩
  rw [rd16le_frameBytes_size]
  exact (Nat.mod_le _ _).trans hp

/-! ## A frame in memory (43_decoder.md section 5) -/

/-- The payload of a frame in memory stands eight bytes behind its start (R81). -/
theorem readAt_payload_of_readAt_frame {m : Memory} {a n : Nat} {c : Config} {k : Half} {p : List Byte}
    (hp : p.length = n) (h : m.readAt (span a) (n + 10) = frameBytes c k p) : m.readAt (span (a + 8)) n = p := by
  have hdrop : m.readAt (fun i => span a (8 + i)) (n + 2) = p ++ le16 (crc16 c p) := by
    rw [← frameBytes_drop_eight, ← h, Memory.readAt_drop _ _ (by omega)]
    rfl
  calc m.readAt (span (a + 8)) n = m.readAt (fun i => span a (8 + i)) n :=
        Memory.readAt_congr fun i _ => by rw [span_apply, span_apply, Nat.add_assoc]
    _ = p := by rw [← Memory.readAt_take _ _ (Nat.le_add_right n 2), hdrop, ← hp, List.take_left]

/-- Settles O41: the destination buffer begins with the frame, and the decoder accepts the encoder's bytes. -/
theorem builtFrameDecodesFromMemory : Obligations.BuiltFrameDecodesFromMemory := by
  intro s t a n hexec hok
  obtain ⟨-, rfl⟩ | ⟨-, -, -, rfl⟩ | ⟨-, -, -, -, rfl⟩ | ⟨b, hb, -, hn, hcap, -, henc, -, rfl⟩ :=
    execEncBuild_cases (ref := some a) hexec
  case inr.inr.inr =>
    cases hb
    have hmax := s.cfg.maxPayload.isLt
    have henc : s.enc.base.toNat + s.enc.cap.toNat ≤ 4294967296 := henc
    have hn10 : (n + 10).toNat = n.toNat + 10 := Nat.mod_eq_of_lt (show n.toNat + 10 < 2 ^ 32 by omega)
    have hbase8 : (s.enc.base + 8).toNat = s.enc.base.toNat + 8 :=
      Nat.mod_eq_of_lt (show s.enc.base.toNat + 8 < 2 ^ 32 by omega)
    have hlen : (s.mem.readAt (span a.toNat) n.toNat).length = n.toNat := Memory.readAt_length ..
    have hframe := encBuildEffect_readAt_base s a n
    have hd := decodeFrame_frameBytes s.cfg s.enc.counter
      (show (s.mem.readAt (span a.toNat) n.toNat).length ≤ 65535 by omega)
    rw [← hframe, hlen, ← hn10] at hd
    have hadm : (Window.lin s.enc.base (n + 10)).admissible = true := decide_eq_true (show _ ≤ 4294967296 by omega)
    have hr0 : BitVec.ofNat 32 ((BitVec.ofNat 16 n.toNat).toNat + 10) = n + 10 := BitVec.eq_of_toNat_eq (by
      rw [hn10, BitVec.toNat_ofNat, BitVec.toNat_ofNat, Nat.mod_eq_of_lt (a := n.toNat) (by omega)]
      exact Nat.mod_eq_of_lt (by omega))
    have hr1 : BitVec.ofNat 32 (s.enc.base.toNat + (0 + 8)) = s.enc.base + 8 :=
      BitVec.eq_of_toNat_eq ((Nat.mod_eq_of_lt (by omega)).trans hbase8.symm)
    refine ⟨_, _, exec_decode_of_ok (W := .lin s.enc.base (n + 10)) rfl hadm hd, rfl, rfl, hr0, hr1, rfl, ?_⟩
    refine (congrArg (fun x : Word => (encBuildEffect a n s).mem.readAt (span x.toNat) n.toNat) hr1).trans ?_
    rw [hbase8]
    exact readAt_payload_of_readAt_frame hlen hframe
  all_goals simp at hok

end Sys2Proof.Machine
end

section
/-! SUPPORT. SCAN of a present window (44_scanner.md R234, R236). -/

namespace Sys2Proof.Machine

/-- The scanner's registers hold what the scan found: no stream is longer than a register counts. -/
theorem scanStream_registers_toNat (c : Config) {w : List Byte} (hw : w.length < 2 ^ 32) :
    (scanStream c w).registers.cursor.toNat = (scanStream c w).cursor ∧
    (scanStream c w).registers.count.toNat = (scanStream c w).hits.length := by
  obtain ⟨hcur, -, hcount, hten, -⟩ := scanStream_bounded c w
  refine ⟨Nat.mod_eq_of_lt (by omega), ?_⟩
  rw [← hcount]
  exact Nat.mod_eq_of_lt (by omega)

theorem Window.bytes_length_lt (s : State) (W : Window) : (W.bytes s).length < 2 ^ 32 := by
  rw [Window.bytes, Memory.readAt_length]
  cases W with
  | lin a n => exact n.isLt
  | cb => exact (Nat.sub_le _ _).trans_lt s.cb.cap.isLt

theorem exec_scan_of_present {o : WindowOp} {s : State} {W : Window} (hW : windowOf o s = some W)
    (ha : W.admissible = true) : exec (.scan o true) s =
      answer (.ok (scanStream s.cfg (W.bytes s)).registers.count 0 0 0)
        ((s.setSc (scanStream s.cfg (W.bytes s)).registers).deliver ((scanStream s.cfg (W.bytes s)).records s W)) := by
  simp only [exec, execScan, hW, ha, not_true_eq_false, if_false]

/-- Settles O43, for each window kind; registers and records are those of the one scan of the window's bytes. -/
theorem scanDeliversWhatItFinds : Obligations.ScanDeliversWhatItFinds := by
  refine fun s => ⟨fun a n ha => ?_, fun hv => ?_⟩
  · obtain ⟨hcur, hcount⟩ := scanStream_registers_toNat s.cfg (Window.bytes_length_lt s (.lin a n))
    exact ⟨_, _, exec_scan_of_present (W := .lin a n) rfl (decide_eq_true ha), rfl, rfl, hcur, hcount, rfl, rfl, rfl,
      rfl, rfl, rfl, rfl⟩
  · obtain ⟨hcur, hcount⟩ := scanStream_registers_toNat s.cfg (Window.bytes_length_lt s .cb)
    exact ⟨_, _, exec_scan_of_present (W := .cb) (if_pos hv) rfl, rfl, rfl, hcur, hcount, rfl, rfl, rfl, rfl, rfl, rfl,
      rfl⟩

end Sys2Proof.Machine
end

section
/-! SUPPORT. The step (10_state.md R28, R36): a presented command, the other inputs, and the reset state. -/

namespace Sys2Proof.Machine

/-! ## The oldest input -/

section Input

variable {s : State} {rest : List Input}

theorem step_of_idle (h : s.inputs = []) : step s = .next s := by rw [step, h]

theorem step_of_command {d : Descriptor} (h : s.inputs = .command d :: rest) :
    step s = runCommand d (s.setInputs rest) := by rw [step, h]

theorem step_of_reset (h : s.inputs = .reset :: rest) : step s = .next (applyReset (s.setInputs rest)) := by
  rw [step, h]

theorem step_of_store {a : Word} {b : Byte} (h : s.inputs = .store a b :: rest) :
    step s = .next (hostStore a b (s.setInputs rest)) := by rw [step, h]

end Input

theorem decode_of_decodeTableWord {nbits w : Nat} {i : Instr} (h : decodeTableWord nbits w = some i) :
    decode (Descriptor.ofBits nbits w) = .ok i := by
  rw [decodeTableWord] at h
  split at h
  next hd => exact hd.trans (congrArg _ (Option.some.inj h))
  next => cases h

/-- Settles O6: the step takes the command and runs it; a fetched word is the very next input, and taking it leaves the
state it was presented to. -/
theorem stepRunsTheDecodedCommand : Obligations.StepRunsTheDecodedCommand := by
  refine ⟨fun s d rest h => ⟨step_of_command h, fun i hd => ?_⟩, fun s nbits w i h => ?_⟩
  · rw [step_of_command h, runCommand_of_decode_ok hd]
  · have hin : (s.withFetchWord nbits w).inputs = .command (Descriptor.ofBits nbits w) :: s.inputs := rfl
    rw [step_of_command hin, runCommand_of_decode_ok (decode_of_decodeTableWord h)]
    rfl

/-- Settles O7, one clause for each input that is no command; a host store is one write. -/
theorem idleResetAndHostStore : Obligations.IdleResetAndHostStore := by
  refine ⟨fun s h => step_of_idle h, fun s rest h => ⟨step_of_reset h, rfl⟩, fun s a b rest h => ?_⟩
  exact ⟨_, step_of_store h, Memory.read_write_same .., fun x hx => Memory.read_write_ne _ b hx, rfl, rfl, rfl, rfl,
    rfl, rfl, rfl⟩

/-! ## The reset state (10_state.md R35) -/

/-- Settles O9: every register group is zero, memory lists nothing, and the parameters are the defaults. -/
theorem resetStateValues : Obligations.ResetStateValues := by
  refine ⟨fun r hmax hpre hcrc => ?_, rfl, rfl, rfl, Memory.read_nil, rfl⟩
  cases r with
  | cfgMaxPayload => exact absurd rfl hmax
  | cfgPreamble => exact absurd rfl hpre
  | cfgCrc => exact absurd rfl hcrc
  | _ => rfl

/-- The default parameters meet R8's constraints: the initial value is not 0, and the last value of R125 is 0x29B1. -/
theorem Config.defaults_legal : Config.legal Config.defaults :=
  ⟨by decide, BitVec.eq_of_toNat_eq (Option.some.inj (congrArg (·[9]?) crcKnownVector))⟩

/-- Settles O10: nothing is in use, nothing is written, answered or delivered. -/
theorem resetMeetsTheInvariant : Obligations.ResetMeetsTheInvariant :=
  ⟨State.reset_cb_inv, State.reset_enc_inv, ⟨le_rfl, fun _ => ⟨rfl, rfl⟩⟩, Config.defaults_legal,
    ⟨List.Pairwise.nil, nofun⟩, nofun, nofun⟩

end Sys2Proof.Machine
end

section
/-! SUPPORT. What a command that ends has done (10_state.md section 6, 20_memory.md section 6): one case for each way to
change the state, and from it the registers and bytes each command can change. -/

namespace Sys2Proof.Machine

/-! ## The effects of the commands -/

/-- The state `t` in which command `i`, begun in `s`, ends: it has only answered, or its one effect has taken place,
with the checks passed that bound the effect. -/
inductive Effect (s : State) : Instr → State → Prop
  | answered (i : Instr) (r : Response) : Effect s i (s.setResponse r)
  | cbInit {a n : Word} (r : Response) (hn : n.toNat ≠ 0) (ha : Admissible a n) :
    Effect s (.cbInit (some a) n) ((cbInitEffect a n s).setResponse r)
  | cbAppend {a n : Word} (r : Response) (hv : s.cb.valid = true) (hn : n.toNat ≤ s.cb.free.toNat) :
    Effect s (.cbAppend (some a) n) ((cbAppendEffect a n s).setResponse r)
  | cbConsume {a n : Word} (r : Response) (hv : s.cb.valid = true) (hn : n.toNat ≤ s.occupied) (ha : Admissible a n) :
    Effect s (.cbConsume (some a) n) ((cbConsumeEffect a n s).setResponse r)
  | encInit {a n : Word} (r : Response) (hn : 10 ≤ n.toNat) (ha : Admissible a n) :
    Effect s (.encInit (some a) n) ((s.setEnc { valid := true, base := a, cap := n, counter := 0 }).setResponse r)
  | encBuild {a n : Word} (r : Response) (hn : n.toNat + 10 ≤ s.enc.cap.toNat) (ha : Admissible s.enc.base s.enc.cap) :
    Effect s (.encBuild (some a) n) ((encBuildEffect a n s).setResponse r)
  | encSetCounter {n : Word} (r : Response) (k : Half) :
    Effect s (.encSetCounter n) ((s.setEnc { s.enc with counter := k }).setResponse r)
  | scanAbsent {w : WindowOp} {sink : Bool} (r : Response) :
    Effect s (.scan w sink) ((s.setSc { cursor := 0, count := 0, stop := .absent }).setResponse r)
  | scanned {w : WindowOp} {sink : Bool} (r : Response) (W : Window) :
    Effect s (.scan w sink) (((s.setSc (scanStream s.cfg (W.bytes s)).registers).deliver
      ((scanStream s.cfg (W.bytes s)).records s W)).setResponse r)

/-- Every command that ends has had one of the effects. -/
theorem effect_of_exec {i : Instr} {s t : State} (h : exec i s = .next t) : Effect s i t := by
  cases i with
  | crc16 ref n =>
    obtain ⟨-, rfl⟩ | ⟨a, -, -, rfl⟩ := execCrc16_cases h
    exacts [.answered .., .answered ..]
  | cbInit ref n =>
    obtain ⟨-, rfl⟩ | ⟨-, -, rfl⟩ | ⟨a, rfl, hn, ha, rfl⟩ := execCbInit_cases h
    exacts [.answered .., .answered .., .cbInit _ hn ha]
  | cbAppend ref n =>
    obtain ⟨-, rfl⟩ | ⟨-, -, -, rfl⟩ | ⟨a, rfl, hv, hn, -, -, rfl⟩ := execCbAppend_cases h
    exacts [.answered .., .answered .., .cbAppend _ hv hn]
  | cbConsume ref n =>
    obtain ⟨-, rfl⟩ | ⟨-, -, -, rfl⟩ | ⟨a, rfl, hv, hn, ha, -, rfl⟩ := execCbConsume_cases h
    exacts [.answered .., .answered .., .cbConsume _ hv hn ha]
  | encInit ref n =>
    obtain ⟨-, rfl⟩ | ⟨-, -, rfl⟩ | ⟨a, rfl, hn, ha, rfl⟩ := execEncInit_cases h
    exacts [.answered .., .answered .., .encInit _ hn ha]
  | encBuild ref n =>
    obtain ⟨-, rfl⟩ | ⟨-, -, -, rfl⟩ | ⟨-, -, -, -, rfl⟩ | ⟨a, rfl, -, -, hn, -, ha, -, rfl⟩ := execEncBuild_cases h
    exacts [.answered .., .answered .., .answered .., .encBuild _ hn ha]
  | frameSize n => obtain rfl := execFrameSize_cases h; exact .answered ..
  | encSetCounter n => obtain rfl := execEncSetCounter_cases h; exact .encSetCounter ..
  | decode w =>
    obtain ⟨-, rfl⟩ | ⟨W, -, -, ⟨k, -, rfl⟩ | ⟨f, -, rfl⟩⟩ := execDecode_cases h
    exacts [.answered .., .answered .., .answered ..]
  | scan w sink =>
    obtain ⟨-, rfl⟩ | ⟨W, -, -, -, rfl⟩ := execScan_cases h
    exacts [.scanAbsent _, .scanned _ W]
  | rdReg n =>
    obtain ⟨-, rfl⟩ | ⟨r, -, rfl⟩ := execRdReg_cases h
    exacts [.answered .., .answered ..]

/-- Settles O54: each effect changes the registers of its own unit, MEM or the sink only. -/
theorem registersChangeOnlyByTheirUnit : Obligations.RegistersChangeOnlyByTheirUnit := by
  intro i s t h
  obtain ⟨hcfg, hinputs⟩ := exec_cfg_inputs h
  refine ⟨hcfg, hinputs, ?_⟩
  cases effect_of_exec h with
  | answered => simp
  | cbInit => simp [cbInitEffect]
  | cbAppend => simp [cbAppendEffect]
  | cbConsume => simp [cbConsumeEffect]
  | encInit => simp
  | encBuild => simp [encBuildEffect]
  | encSetCounter => simp
  | scanAbsent => simp
  | scanned => simp

/-! ## Bytes (20_memory.md R60) -/

/-- Outside the write column of R60 nothing is written. -/
theorem Effect.read_of_not_writesByte {i : Instr} {s t : State} (h : Effect s i t) {x : Nat} (hx : ¬ writesByte i s x) :
    t.mem.read x = s.mem.read x := by
  cases h with
  | cbInit =>
    simp only [writesByte, not_and_or, not_le, not_lt] at hx
    exact Memory.read_writeAt_span_of_outside _ _ _ x (by rwa [List.length_replicate])
  | cbAppend => exact cbAppendEffect_read_of_forall_ne s _ fun j hj heq => hx ⟨j, hj, heq⟩
  | cbConsume =>
    simp only [writesByte, not_and_or, not_le, not_lt] at hx
    exact cbConsumeEffect_read_of_outside s hx
  | encBuild =>
    simp only [writesByte, not_and_or, not_le, not_lt] at hx
    exact encBuildEffect_read_of_outside s _ hx
  | _ => rfl

/-- Settles O55: the effects write in their footprint, and a command that fails has no effect. -/
theorem writesStayInTheFootprint : Obligations.WritesStayInTheFootprint := by
  intro i s t h
  refine ⟨fun x hx => (effect_of_exec h).read_of_not_writesByte hx, fun hfail => ?_⟩
  cases commandEnd_of_exec h with
  | error | illegal => rfl
  | ok => cases hfail

end Sys2Proof.Machine
end

section
/-! SUPPORT. The invariant of the machine (10_state.md R23, R25, R26): every effect of a command keeps each part of it,
and so does every step. -/

namespace Sys2Proof.Machine

section Effects

variable {i : Instr} {s t : State}

/-! ## One part of the state after another -/

/-- R23. -/
theorem Effect.cb_inv (h : Effect s i t) (hs : s.cb.inv) : t.cb.inv := by
  cases h with
  | cbInit _ hn ha => exact cbInitEffect_inv hn ha s
  | @cbAppend a _ _ hv hn => exact cbAppendEffect_inv hs hv hn a
  | @cbConsume a _ _ hv hn => exact cbConsumeEffect_inv hs hv hn a
  | _ => exact hs

/-- R25. -/
theorem Effect.enc_inv (h : Effect s i t) (hs : s.enc.inv) : t.enc.inv := by
  cases h with
  | encInit _ hn ha => exact ⟨fun _ => ⟨hn, ha⟩, nofun⟩
  | _ => exact hs

/-- The scanner registers say of a scan what its rows keep (R234, R237). -/
theorem scanStream_registers_inv (c : Config) {w : List Byte} (hw : w.length < 2 ^ 32) :
    (scanStream c w).registers.inv := by
  obtain ⟨hcur, hcount⟩ := scanStream_registers_toNat c hw
  obtain ⟨-, -, hlen, hten, hstop⟩ := scanStream_bounded c w
  refine ⟨by rwa [hcur, hcount, ← hlen], fun hidle => ?_⟩
  have hstop : (scanStream c w).registers.stop = .noPreamble ∨ (scanStream c w).registers.stop = .tooShort ∨
      (scanStream c w).registers.stop = .incomplete := hstop (scanStream_phase c w)
  obtain h | h | h := hstop <;> rw [h] at hidle <;> simp at hidle

theorem Effect.sc_inv (h : Effect s i t) (hs : s.sc.inv) : t.sc.inv := by
  cases h with
  | scanAbsent => exact ⟨le_rfl, fun _ => ⟨rfl, rfl⟩⟩
  | scanned _ W => exact scanStream_registers_inv s.cfg (W.bytes_length_lt s)
  | _ => exact hs

/-- Every effect writes inside `MEM` (20_memory.md R54). -/
theorem Effect.mem_wf (h : Effect s i t) (hcb : s.cb.inv) (hs : s.mem.wf) : t.mem.wf := by
  cases h with
  | cbInit _ _ ha =>
    exact Memory.writeAt_wf hs fun j hj => by
      rw [List.length_replicate] at hj
      exact (Nat.add_lt_add_left hj _).trans_le ha
  | cbAppend _ hv _ =>
    obtain ⟨-, hvalid, -⟩ := hcb
    obtain ⟨hcap, -, -, hbase, -⟩ := hvalid hv
    exact Memory.writeAt_wf hs fun j _ => (ring_lt hcap).trans_le hbase
  | cbConsume _ _ _ ha =>
    exact Memory.writeAt_wf hs fun j hj => by
      rw [Memory.readAt_length] at hj
      exact (Nat.add_lt_add_left hj _).trans_le ha
  | encBuild _ hn ha =>
    exact Memory.writeAt_wf hs fun j hj => by
      rw [frameBytes_length, Memory.readAt_length] at hj
      exact (Nat.add_lt_add_left (hj.trans_le hn) _).trans_le ha
  | _ => exact hs

/-- R101: no size field makes `CONSUMED` overflow. -/
theorem frameRecord_inv (s : State) (W : Window) (p : Nat) (f : Frame) : (frameRecord s W p f).inv :=
  Nat.mod_eq_of_lt (by have := f.size.isLt; rw [Frame.total]; omega)

theorem Effect.sink_inv (h : Effect s i t) (hs : ∀ r ∈ s.sink, r.inv) : ∀ r ∈ t.sink, r.inv := by
  cases h with
  | scanned _ W =>
    intro r hr
    obtain hold | hnew := List.mem_append.1 hr
    · exact hs r hold
    · obtain ⟨x, -, rfl⟩ := List.mem_map.1 hnew
      exact frameRecord_inv s W x.1 x.2
  | _ => exact hs

/-! ## The response (30_encoding.md R100) -/

theorem Response.error_inv (k : ErrorKind) : (Response.error k).inv :=
  ⟨.inl (by cases k <;> decide), fun _ => ⟨rfl, rfl, rfl, rfl⟩⟩

theorem Response.illegal_inv : Response.illegal.inv := ⟨.inr rfl, fun _ => ⟨rfl, rfl, rfl, rfl⟩⟩

theorem CommandEnd.response_inv (h : CommandEnd s t) : ∀ r ∈ t.response, r.inv := by
  cases h with
  | error k => rintro r ⟨⟩; exact Response.error_inv k
  | illegal => rintro r ⟨⟩; exact Response.illegal_inv
  | ok u r0 r1 r2 r3 => rintro r ⟨⟩; exact ⟨.inl (Nat.zero_le 8), fun hne => absurd rfl hne⟩

/-! ## The whole state -/

/-- A command keeps the invariant. -/
theorem exec_inv (h : exec i s = .next t) (hs : s.Inv) : t.Inv := by
  obtain ⟨hcb, henc, hsc, hcfg, hmem, -, hsink⟩ := hs
  have heff := effect_of_exec h
  exact ⟨heff.cb_inv hcb, heff.enc_inv henc, heff.sc_inv hsc, (exec_cfg_inputs h).1 ▸ hcfg, heff.mem_wf hcb hmem,
    (commandEnd_of_exec h).response_inv, heff.sink_inv hsink⟩

theorem setInputs_inv (l : List Input) (hs : s.Inv) : (s.setInputs l).Inv := hs

theorem illegalCommand_inv (hs : s.Inv) : (s.setResponse .illegal).Inv := by
  obtain ⟨hcb, henc, hsc, hcfg, hmem, -, hsink⟩ := hs
  exact ⟨hcb, henc, hsc, hcfg, hmem, CommandEnd.response_inv (.illegal (s := s)), hsink⟩

theorem applyReset_inv (hs : s.Inv) : (applyReset s).Inv := by
  obtain ⟨-, -, -, hcfg, hmem, -, -⟩ := hs
  obtain ⟨hcb, henc, hsc, -, -, hresponse, hsink⟩ := resetMeetsTheInvariant
  exact ⟨hcb, henc, hsc, hcfg, hmem, hresponse, hsink⟩

theorem hostStore_inv (a : Word) (b : Byte) (hs : s.Inv) : (hostStore a b s).Inv := by
  obtain ⟨hcb, henc, hsc, hcfg, hmem, hresponse, hsink⟩ := hs
  exact ⟨hcb, henc, hsc, hcfg, Memory.write_wf hmem a.isLt, hresponse, hsink⟩

end Effects

/-- Settles O11, one case for each input the step can take. -/
theorem stepKeepsTheInvariant : Obligations.StepKeepsTheInvariant := by
  intro s t hs h
  obtain ⟨-, rfl⟩ | ⟨d, rest, i, -, -, hexec⟩ | ⟨d, rest, e, -, -, rfl⟩ | ⟨rest, -, rfl⟩ | ⟨a, b, rest, -, rfl⟩ :=
    step_cases h
  · exact hs
  · exact exec_inv hexec (setInputs_inv rest hs)
  · exact illegalCommand_inv (setInputs_inv rest hs)
  · exact applyReset_inv (setInputs_inv rest hs)
  · exact hostStore_inv a b (setInputs_inv rest hs)

/-- Settles O12: a command keeps the parameters, and no other input touches them. -/
theorem stepNeverChangesTheParameters : Obligations.StepNeverChangesTheParameters := by
  intro s t h
  obtain ⟨-, rfl⟩ | ⟨d, rest, i, -, -, hexec⟩ | ⟨d, rest, e, -, -, rfl⟩ | ⟨rest, -, rfl⟩ | ⟨a, b, rest, -, rfl⟩ :=
    step_cases h
  · rfl
  · exact (exec_cfg_inputs hexec).1
  · rfl
  · rfl
  · rfl

end Sys2Proof.Machine
end

section
/-! SUPPORT. Where a command stops (20_memory.md R54, R61): the exact conditions of the two refusals. -/

namespace Sys2Proof.Machine

/-! ## The shapes a command's checks have -/

section Checks

variable {s u : State} {q : Refusal} {r : Response} {p o : Prop} [Decidable p] [Decidable o] {y : Result}

/-- A check that fails with an error lets no refusal through. -/
theorem raise_or_eq_refused_iff {k : ErrorKind} :
    (if p then raise k s else y) = .refused q ↔ ¬ p ∧ y = .refused q := by
  by_cases hp : p <;> simp [hp]

/-- Last comes the test of the region. -/
theorem region_eq_refused_iff (hy : y ≠ .refused q) : (if p then .refused .inadmissibleRegion else y) = .refused q ↔
    q = .inadmissibleRegion ∧ p := by
  by_cases hp : p <;> simp [hp, hy, @eq_comm _ q]

/-- Last come, for a copy, the test of its regions and the test whether they share a byte. -/
theorem copy_eq_refused_iff : (if p then .refused .inadmissibleRegion else if o then .refused .overlappingRegions
      else answer r u) = Host.Outcome.refused q ↔
    (q = .inadmissibleRegion ∧ p) ∨ (q = .overlappingRegions ∧ ¬ p ∧ o) := by
  by_cases hp : p <;> by_cases ho : o <;> simp [hp, ho, @eq_comm _ q]

end Checks

/-! ## The commands -/

section Refusals

variable {s : State} {a n : Word} {q : Refusal}

theorem exec_cbAppend_eq_refused_iff : exec (.cbAppend (some a) n) s = .refused q ↔
    (q = .inadmissibleRegion ∧ leavesMemory (.cbAppend (some a) n) s) ∨
    (q = .overlappingRegions ∧ copiesOntoItself (.cbAppend (some a) n) s) := by
  rw [exec, execCbAppend, raise_or_eq_refused_iff, raise_or_eq_refused_iff, copy_eq_refused_iff, leavesMemory,
    copiesOntoItself, not_not, not_not, gt_iff_lt, not_lt]
  tauto

theorem exec_cbConsume_eq_refused_iff : exec (.cbConsume (some a) n) s = .refused q ↔
    (q = .inadmissibleRegion ∧ leavesMemory (.cbConsume (some a) n) s) ∨
    (q = .overlappingRegions ∧ copiesOntoItself (.cbConsume (some a) n) s) := by
  rw [exec, execCbConsume, raise_or_eq_refused_iff, raise_or_eq_refused_iff, copy_eq_refused_iff, leavesMemory,
    copiesOntoItself, not_not, not_not, gt_iff_lt, not_lt]
  tauto

theorem exec_encBuild_eq_refused_iff : exec (.encBuild (some a) n) s = .refused q ↔
    (q = .inadmissibleRegion ∧ leavesMemory (.encBuild (some a) n) s) ∨
    (q = .overlappingRegions ∧ copiesOntoItself (.encBuild (some a) n) s) := by
  rw [exec, execEncBuild, raise_or_eq_refused_iff, raise_or_eq_refused_iff, raise_or_eq_refused_iff,
    copy_eq_refused_iff, leavesMemory, copiesOntoItself, not_not, gt_iff_lt, not_lt, gt_iff_lt, not_lt, not_or, not_not,
    not_not]
  tauto

/-- DECODE leaves memory with a window that is there and does not fit. -/
theorem leavesMemory_decode_iff {o : WindowOp} : leavesMemory (.decode o) s ↔
    ∃ W, windowOf o s = some W ∧ ¬ W.admissible = true := by
  match o with
  | .lin none n => simp [leavesMemory, windowOf]
  | .lin (some a) n => simp [leavesMemory, windowOf, Window.admissible]
  | .cb => simp [leavesMemory, windowOf, Window.admissible]

theorem exec_decode_eq_refused_iff {o : WindowOp} : exec (.decode o) s = .refused q ↔
    q = .inadmissibleRegion ∧ leavesMemory (.decode o) s := by
  rw [leavesMemory_decode_iff]
  cases hW : windowOf o s with
  | none => simp [exec_decode_of_absent hW]
  | some W =>
    simp only [exec, execDecode, hW]
    rw [region_eq_refused_iff]
    · simp
    · split
      · exact raise_ne_refused
      · exact answer_ne_refused

/-- SCAN leaves memory as DECODE does, when there is a sink. -/
theorem leavesMemory_scan_iff {o : WindowOp} {sink : Bool} : leavesMemory (.scan o sink) s ↔
    sink = true ∧ leavesMemory (.decode o) s := by
  match o, sink with
  | .lin none n, _ => simp [leavesMemory]
  | .lin (some a) n, true => simp [leavesMemory]
  | .lin (some a) n, false => simp [leavesMemory]
  | .cb, _ => simp [leavesMemory]

theorem exec_scan_eq_refused_iff {o : WindowOp} {sink : Bool} : exec (.scan o sink) s = .refused q ↔
    q = .inadmissibleRegion ∧ leavesMemory (.scan o sink) s := by
  rw [leavesMemory_scan_iff, leavesMemory_decode_iff]
  by_cases habsent : windowOf o s = none ∨ sink = false
  · rw [exec_scan_of_absent habsent]
    obtain h | h := habsent <;> simp [h]
  · obtain ⟨hW, hsink⟩ := not_or.1 habsent
    obtain ⟨W, hW⟩ := Option.ne_none_iff_exists'.1 hW
    obtain rfl : sink = true := by simpa using hsink
    simp only [exec, execScan, hW, not_true_eq_false, if_false]
    rw [region_eq_refused_iff answer_ne_refused]
    simp

theorem exec_rdReg_ne_refused : exec (.rdReg n) s ≠ .refused q := by
  rw [exec, execRdReg]
  split
  · exact illegalCommand_ne_refused
  · exact answer_ne_refused

end Refusals

/-- Settles O15: the regions are tested last, behind every check that can fail. -/
theorem stopsExactlyOutsideTheSpec : Obligations.StopsExactlyOutsideTheSpec := by
  intro i s q
  match i with
  | .cbAppend (some a) n => exact exec_cbAppend_eq_refused_iff
  | .cbConsume (some a) n => exact exec_cbConsume_eq_refused_iff
  | .encBuild (some a) n => exact exec_encBuild_eq_refused_iff
  | .crc16 (some a) n =>
    rw [exec, execCrc16, region_eq_refused_iff answer_ne_refused]
    simp [leavesMemory, copiesOntoItself]
  | .cbInit (some a) n =>
    have hn : n.toNat = 0 ↔ n = 0 := (BitVec.toNat_eq (y := 0)).symm
    rw [exec, execCbInit, raise_or_eq_refused_iff, region_eq_refused_iff answer_ne_refused, hn]
    simp [leavesMemory, copiesOntoItself, and_left_comm]
  | .encInit (some a) n =>
    rw [exec, execEncInit, raise_or_eq_refused_iff, region_eq_refused_iff answer_ne_refused]
    simp [leavesMemory, copiesOntoItself, and_left_comm]
  | .decode o => simp [exec_decode_eq_refused_iff, copiesOntoItself]
  | .scan o sink => simp [exec_scan_eq_refused_iff, copiesOntoItself]
  | .crc16 none n | .cbInit none n | .cbAppend none n | .cbConsume none n | .encInit none n | .encBuild none n =>
    exact iff_of_false raise_ne_refused (by simp [leavesMemory, copiesOntoItself])
  | .frameSize n | .encSetCounter n => exact iff_of_false answer_ne_refused (by simp [leavesMemory, copiesOntoItself])
  | .rdReg n => exact iff_of_false exec_rdReg_ne_refused (by simp [leavesMemory, copiesOntoItself])

end Sys2Proof.Machine
end

section
/-! SUPPORT. What a command depends on (20_memory.md R60, 43_decoder.md section 5): two states with the same registers
that agree on the bytes a command may read make it end alike. -/

namespace Sys2Proof.Machine

/-! ## States that a command cannot tell apart -/

/-- The same registers and the same parameters; memory, inputs and outputs may differ. -/
structure SameRegisters (s₁ s₂ : State) : Prop where
  cb : s₁.cb = s₂.cb
  enc : s₁.enc = s₂.enc
  sc : s₁.sc = s₂.sc
  cfg : s₁.cfg = s₂.cfg

/-- The two memories agree on the bytes the command may read. -/
def AgreeOnReads (i : Instr) (s₁ s₂ : State) : Prop := ∀ x, readsByte i s₁ x → s₁.mem.read x = s₂.mem.read x

/-- From `s₂` the command ends as it does in `t₁` from `s₁`: with the response, the registers, the records and the
written bytes the same. -/
def EndsAlike (i : Instr) (s₁ s₂ t₁ : State) : Prop :=
  ∃ t₂ rs, exec i s₂ = .next t₂ ∧ t₂.response = t₁.response ∧ t₂.cb = t₁.cb ∧ t₂.enc = t₁.enc ∧ t₂.sc = t₁.sc ∧
    t₁.sink = s₁.sink ++ rs ∧ t₂.sink = s₂.sink ++ rs ∧
    (t₁.succeeded = true → ∀ x, writesByte i s₁ x → t₂.mem.read x = t₁.mem.read x)

section Alike

variable {i : Instr} {s₁ s₂ : State} {a n : Word} {o : WindowOp} {W : Window} (hreg : SameRegisters s₁ s₂)
include hreg

/-! ## What registers and read bytes decide -/

theorem SameRegisters.occupied_eq : s₁.occupied = s₂.occupied := by rw [State.occupied, State.occupied, hreg.cb]

theorem SameRegisters.headSlot_eq : s₁.headSlot = s₂.headSlot := by rw [State.headSlot, State.headSlot, hreg.cb]

theorem SameRegisters.tailSlot_eq : s₁.tailSlot = s₂.tailSlot := by rw [State.tailSlot, State.tailSlot, hreg.cb]

theorem SameRegisters.windowOf_eq (o : WindowOp) : windowOf o s₁ = windowOf o s₂ := by
  match o with
  | .lin none _ | .lin (some _) _ => rfl
  | .cb => rw [windowOf, windowOf, hreg.cb]

theorem SameRegisters.frameRecord_eq (W : Window) (p : Nat) (f : Frame) :
    frameRecord s₁ W p f = frameRecord s₂ W p f := by
  have href : W.ref s₁ (p + 8) = W.ref s₂ (p + 8) := by
    cases W with
    | lin => rfl
    | cb => rw [Window.ref, Window.ref, hreg.cb]
  rw [frameRecord, frameRecord, href]

omit hreg in
/-- A region is read alike by two memories that agree on it. -/
theorem readAt_span_congr {m₁ m₂ : Memory} {a n : Nat} (h : ∀ x, a ≤ x ∧ x < a + n → m₁.read x = m₂.read x) :
    m₁.readAt (span a) n = m₂.readAt (span a) n :=
  Memory.readAt_congr fun j hj => h _ (by rw [span_apply]; omega)

theorem SameRegisters.window_bytes_eq (hW : windowOf o s₁ = some W) (hread : AgreeOnReads (.decode o) s₁ s₂) :
    W.bytes s₁ = W.bytes s₂ := by
  match o with
  | .lin none _ => cases hW
  | .lin (some a) n =>
    cases hW
    exact readAt_span_congr hread
  | .cb =>
    obtain ⟨-, rfl⟩ : s₁.cb.valid = true ∧ .cb = W := by simpa [windowOf] using hW
    have hlen : Window.len s₁ .cb = Window.len s₂ .cb := hreg.occupied_eq
    have hslot : Window.slot s₁ .cb = Window.slot s₂ .cb := hreg.headSlot_eq
    rw [Window.bytes, Window.bytes, ← hlen, ← hslot]
    exact Memory.readAt_congr fun j hj => hread _ ⟨j, hj, rfl⟩

/-! ## How the commands end -/

/-- A command that only answers, and writes nothing when it succeeds, ends alike when it answers alike. -/
theorem endsAlike_of_answer {r : Response} (h : exec i s₂ = .next (s₂.setResponse r))
    (hw : (s₁.setResponse r).succeeded = true → ∀ x, ¬ writesByte i s₁ x) : EndsAlike i s₁ s₂ (s₁.setResponse r) :=
  ⟨_, [], h, rfl, hreg.cb.symm, hreg.enc.symm, hreg.sc.symm, (List.append_nil _).symm, (List.append_nil _).symm,
    fun hok x hx => absurd hx (hw hok x)⟩

/-- A command fails with the same error. -/
theorem SameRegisters.fails (hread : AgreeOnReads i s₁ s₂) {k : ErrorKind} (h : Fails i s₁ k) : Fails i s₂ k := by
  cases i with
  | crc16 => rwa [fails_crc16_iff] at h ⊢
  | cbInit => rwa [fails_cbInit_iff] at h ⊢
  | cbAppend => rwa [fails_cbAppend_iff, hreg.cb, ← fails_cbAppend_iff] at h
  | cbConsume => rwa [fails_cbConsume_iff, hreg.cb, hreg.occupied_eq, ← fails_cbConsume_iff] at h
  | encInit => rwa [fails_encInit_iff] at h ⊢
  | encBuild => rwa [fails_encBuild_iff, hreg.enc, hreg.cfg, ← fails_encBuild_iff] at h
  | frameSize => exact (not_fails_frameSize h).elim
  | encSetCounter => exact (not_fails_encSetCounter h).elim
  | decode o =>
    rw [fails_decode_iff] at h ⊢
    rw [← hreg.windowOf_eq, ← hreg.cfg]
    refine h.imp_right fun ⟨W, hW, ha, hd⟩ => ⟨W, hW, ha, ?_⟩
    rwa [← hreg.window_bytes_eq hW hread]
  | scan => exact (not_fails_scan h).elim
  | rdReg => exact (not_fails_rdReg h).elim

theorem endsAlike_of_fails (hread : AgreeOnReads i s₁ s₂) {k : ErrorKind} (h : Fails i s₁ k) :
    EndsAlike i s₁ s₂ (s₁.setResponse (.error k)) :=
  endsAlike_of_answer hreg (hreg.fails hread h) fun hok => by simp at hok

omit hreg in
/-- Two stores of the same bytes to a region agree on it. -/
theorem read_writeAt_span_agree (m₁ m₂ : Memory) {a n x : Nat} {bs : List Byte} (hlen : bs.length = n)
    (hx : a ≤ x ∧ x < a + n) : (m₂.writeAt (span a) bs).read x = (m₁.writeAt (span a) bs).read x :=
  Memory.read_writeAt_agree _ _ _ _ _ (.inl ⟨x - a, by omega, by rw [span_apply]; omega⟩)

theorem endsAlike_cbInit (hn : n.toNat ≠ 0) (ha : Admissible a n) :
    EndsAlike (.cbInit (some a) n) s₁ s₂ ((cbInitEffect a n s₁).setResponse .done) := by
  have hn : n ≠ 0 := fun h => hn (congrArg BitVec.toNat h)
  exact ⟨_, [], exec_cbInit_of_admissible hn ha s₂, rfl, rfl, hreg.enc.symm, hreg.sc.symm, (List.append_nil _).symm,
    (List.append_nil _).symm, fun _ x hx => read_writeAt_span_agree _ _ (List.length_replicate ..) hx⟩

theorem endsAlike_cbAppend (hread : AgreeOnReads (.cbAppend (some a) n) s₁ s₂) (hv : s₁.cb.valid = true)
    (hn : n.toNat ≤ s₁.cb.free.toNat) (ha : Admissible a n)
    (hdis : ¬ Overlap a.toNat n.toNat s₁.cb.base.toNat s₁.cb.cap.toNat) :
    EndsAlike (.cbAppend (some a) n) s₁ s₂ ((cbAppendEffect a n s₁).setResponse .done) := by
  have hcb : (cbAppendEffect a n s₂).cb = (cbAppendEffect a n s₁).cb := by simp [cbAppendEffect, hreg.cb]
  have hbytes : s₂.mem.readAt (span a.toNat) n.toNat = s₁.mem.readAt (span a.toNat) n.toNat :=
    (readAt_span_congr hread).symm
  have hmem : (cbAppendEffect a n s₂).mem =
      s₂.mem.writeAt s₁.tailSlot (s₁.mem.readAt (span a.toNat) n.toNat) := by
    rw [hreg.tailSlot_eq, ← hbytes]; rfl
  rw [hreg.cb] at hv hn hdis
  refine ⟨_, [], exec_cbAppend_of_fits hv hn ha hdis, rfl, hcb, hreg.enc.symm, hreg.sc.symm, (List.append_nil _).symm,
    (List.append_nil _).symm, fun _ x ⟨j, hj, hx⟩ => ?_⟩
  exact (congrArg (Memory.read · x) hmem).trans
    (Memory.read_writeAt_agree _ _ _ _ _ (.inl ⟨j, by rwa [Memory.readAt_length], hx⟩))

theorem endsAlike_cbConsume (hread : AgreeOnReads (.cbConsume (some a) n) s₁ s₂) (hv : s₁.cb.valid = true)
    (hn : n.toNat ≤ s₁.occupied) (ha : Admissible a n)
    (hdis : ¬ Overlap a.toNat n.toNat s₁.cb.base.toNat s₁.cb.cap.toNat) :
    EndsAlike (.cbConsume (some a) n) s₁ s₂ ((cbConsumeEffect a n s₁).setResponse .done) := by
  have hcb : (cbConsumeEffect a n s₂).cb = (cbConsumeEffect a n s₁).cb := by simp [cbConsumeEffect, hreg.cb]
  have hbytes : s₂.mem.readAt s₂.headSlot n.toNat = s₁.mem.readAt s₁.headSlot n.toNat := by
    rw [← hreg.headSlot_eq]
    exact (Memory.readAt_congr fun j hj => hread _ ⟨j, hj, rfl⟩).symm
  have hmem : (cbConsumeEffect a n s₂).mem =
      s₂.mem.writeAt (span a.toNat) (s₁.mem.readAt s₁.headSlot n.toNat) := by
    rw [← hbytes]; rfl
  rw [hreg.cb] at hv hdis
  rw [hreg.occupied_eq] at hn
  refine ⟨_, [], exec_cbConsume_of_occupied hv hn ha hdis, rfl, hcb, hreg.enc.symm, hreg.sc.symm,
    (List.append_nil _).symm, (List.append_nil _).symm, fun _ x hx => ?_⟩
  exact (congrArg (Memory.read · x) hmem).trans (read_writeAt_span_agree _ _ (Memory.readAt_length ..) hx)

theorem endsAlike_encBuild (hread : AgreeOnReads (.encBuild (some a) n) s₁ s₂) (hv : s₁.enc.valid = true)
    (hn : n.toNat ≤ s₁.cfg.maxPayload.toNat) (hcap : n.toNat + 10 ≤ s₁.enc.cap.toNat) (ha : Admissible a n)
    (henc : Admissible s₁.enc.base s₁.enc.cap) (hdis : ¬ Overlap a.toNat n.toNat s₁.enc.base.toNat (n.toNat + 10)) :
    EndsAlike (.encBuild (some a) n) s₁ s₂ ((encBuildEffect a n s₁).setResponse (.ok (n + 10) 0 0 0)) := by
  have hresponse : ((encBuildEffect a n s₂).setResponse (.ok (n + 10) 0 0 0)).response =
      ((encBuildEffect a n s₁).setResponse (.ok (n + 10) 0 0 0)).response := by
    rw [State.setResponse_response, State.setResponse_response]
  have hencs : (encBuildEffect a n s₂).enc = (encBuildEffect a n s₁).enc := by simp [encBuildEffect, hreg.enc]
  have hmem : (encBuildEffect a n s₂).mem = s₂.mem.writeAt (span s₁.enc.base.toNat)
      (frameBytes s₁.cfg s₁.enc.counter (s₁.mem.readAt (span a.toNat) n.toNat)) := by
    rw [hreg.enc, hreg.cfg, readAt_span_congr hread]; rfl
  rw [hreg.enc] at hv hcap henc hdis
  rw [hreg.cfg] at hn
  refine ⟨_, [], exec_encBuild_of_fits hv hn hcap ha henc hdis, hresponse, hreg.cb.symm, hencs, hreg.sc.symm,
    (List.append_nil _).symm, (List.append_nil _).symm, fun _ x hx => ?_⟩
  exact (congrArg (Memory.read · x) hmem).trans
    (read_writeAt_span_agree _ _ (by rw [frameBytes_length, Memory.readAt_length]) (by rwa [← Nat.add_assoc]))

theorem endsAlike_scan (hread : AgreeOnReads (.decode o) s₁ s₂) (hW : windowOf o s₁ = some W)
    (ha : W.admissible = true) :
    EndsAlike (.scan o true) s₁ s₂ (((s₁.setSc (scanStream s₁.cfg (W.bytes s₁)).registers).deliver
      ((scanStream s₁.cfg (W.bytes s₁)).records s₁ W)).setResponse
        (.ok (scanStream s₁.cfg (W.bytes s₁)).registers.count 0 0 0)) := by
  have hbytes := hreg.window_bytes_eq hW hread
  have hrecords : (scanStream s₁.cfg (W.bytes s₁)).records s₂ W = (scanStream s₁.cfg (W.bytes s₁)).records s₁ W :=
    List.map_congr_left fun h _ => (hreg.frameRecord_eq W h.1 h.2).symm
  have hexec := exec_scan_of_present ((hreg.windowOf_eq o).symm.trans hW) ha
  rw [← hbytes, ← hreg.cfg, hrecords] at hexec
  exact ⟨_, _, hexec, rfl, hreg.cb.symm, hreg.enc.symm, rfl, rfl, rfl, fun _ x hx => hx.elim⟩

end Alike

/-- Settles O56, one case for each way a command ends: each reads what its footprint allows and no more. -/
theorem readsStayInTheFootprint : Obligations.ReadsStayInTheFootprint := by
  intro i s₁ s₂ t₁ hcb henc hsc hcfg hread h
  have hreg : SameRegisters s₁ s₂ := ⟨hcb, henc, hsc, hcfg⟩
  show EndsAlike i s₁ s₂ t₁
  cases i with
  | crc16 ref n =>
    obtain ⟨-, rfl⟩ | ⟨a, rfl, ha, rfl⟩ := execCrc16_cases h
    · exact endsAlike_of_fails hreg hread h
    · refine endsAlike_of_answer hreg ?_ fun _ _ => id
      rw [exec_crc16_of_admissible ha, readAt_span_congr hread, hcfg]
      rfl
  | cbInit ref n =>
    obtain ⟨-, rfl⟩ | ⟨-, -, rfl⟩ | ⟨a, rfl, hn, ha, rfl⟩ := execCbInit_cases h
    · exact endsAlike_of_fails hreg hread h
    · exact endsAlike_of_fails hreg hread h
    · exact endsAlike_cbInit hreg hn ha
  | cbAppend ref n =>
    obtain ⟨-, rfl⟩ | ⟨-, -, -, rfl⟩ | ⟨a, rfl, hv, hn, ha, hdis, rfl⟩ := execCbAppend_cases h
    · exact endsAlike_of_fails hreg hread h
    · exact endsAlike_of_fails hreg hread h
    · exact endsAlike_cbAppend hreg hread hv hn ha hdis
  | cbConsume ref n =>
    obtain ⟨-, rfl⟩ | ⟨-, -, -, rfl⟩ | ⟨a, rfl, hv, hn, ha, hdis, rfl⟩ := execCbConsume_cases h
    · exact endsAlike_of_fails hreg hread h
    · exact endsAlike_of_fails hreg hread h
    · exact endsAlike_cbConsume hreg hread hv hn ha hdis
  | encInit ref n =>
    obtain ⟨-, rfl⟩ | ⟨-, -, rfl⟩ | ⟨a, rfl, hn, ha, rfl⟩ := execEncInit_cases h
    · exact endsAlike_of_fails hreg hread h
    · exact endsAlike_of_fails hreg hread h
    · exact ⟨_, [], exec_encInit_of_admissible hn ha s₂, rfl, hcb.symm, rfl, hsc.symm, (List.append_nil _).symm,
        (List.append_nil _).symm, fun _ x hx => hx.elim⟩
  | encBuild ref n =>
    obtain ⟨-, rfl⟩ | ⟨-, -, -, rfl⟩ | ⟨-, -, -, -, rfl⟩ | ⟨a, rfl, hv, hn, hcap, ha, henc', hdis, rfl⟩ :=
      execEncBuild_cases h
    · exact endsAlike_of_fails hreg hread h
    · exact endsAlike_of_fails hreg hread h
    · exact endsAlike_of_fails hreg hread h
    · exact endsAlike_encBuild hreg hread hv hn hcap ha henc' hdis
  | frameSize n =>
    obtain rfl := execFrameSize_cases h
    exact endsAlike_of_answer hreg rfl fun _ _ => id
  | encSetCounter n =>
    obtain rfl := execEncSetCounter_cases h
    exact ⟨_, [], rfl, rfl, hcb.symm, by simp [henc], hsc.symm, (List.append_nil _).symm, (List.append_nil _).symm,
      fun _ x hx => hx.elim⟩
  | decode o =>
    obtain ⟨-, rfl⟩ | ⟨W, hW, ha, ⟨k, -, rfl⟩ | ⟨f, hd, rfl⟩⟩ := execDecode_cases h
    · exact endsAlike_of_fails hreg hread h
    · exact endsAlike_of_fails hreg hread h
    · refine endsAlike_of_answer hreg ?_ fun _ _ => id
      rw [hreg.window_bytes_eq hW hread, hcfg] at hd
      rw [exec_decode_of_ok ((hreg.windowOf_eq o).symm.trans hW) ha hd, hreg.frameRecord_eq]
      rfl
  | scan o sink =>
    have hread' : AgreeOnReads (.decode o) s₁ s₂ := by
      match o with
      | .lin none _ => exact hread
      | .lin (some _) _ => exact hread
      | .cb => exact hread
    obtain ⟨habsent, rfl⟩ | ⟨W, hW, rfl, ha, rfl⟩ := execScan_cases h
    · rw [hreg.windowOf_eq] at habsent
      exact ⟨_, [], exec_scan_of_absent habsent, rfl, hcb.symm, henc.symm, rfl, (List.append_nil _).symm,
        (List.append_nil _).symm, fun _ x hx => hx.elim⟩
    · exact endsAlike_scan hreg hread' hW ha
  | rdReg n =>
    obtain ⟨hnone, rfl⟩ | ⟨r, hr, rfl⟩ := execRdReg_cases h
    · exact endsAlike_of_answer hreg (exec_rdReg_of_unlisted hnone s₂) fun _ _ => id
    · refine endsAlike_of_answer hreg ?_ fun _ _ => id
      have hvalue : regValue r s₁ = regValue r s₂ := by cases r <;> simp [regValue, hcb, henc, hsc, hcfg]
      rw [exec, execRdReg, hr, hvalue]
      rfl

end Sys2Proof.Machine
end
